-- ==== Sys2Proof/Word.lean ====
section
/-! DEFINITION. The block's data types: 32-bit words (R8) and the fields of a command word (R80). -/

namespace Sys2Proof

/-- A 32-bit register or bus value (R8). Bit 0 is the least significant (R9). -/
abbrev Word := BitVec 32

/-- An 8-bit field: OP or IMM of a command word (R80), or one seed byte (R126). -/
abbrev Byte := BitVec 8

end Sys2Proof
end

