-- ==== Sys2Proof/Syntax.lean ====
section
/-! DEFINITION. The commands (one constructor per row of the opcode table, R83), the opcodes and the
error codes (R180), as data. -/

namespace Sys2Proof

/-- A command with its immediate operand (R81). The immediate is the whole 8-bit IMM field; which
values are legal is `Instr.wf`. -/
inductive Instr where
  /-- NOP (R108). -/
  | nop
  /-- LOAD_MODULUS (R122); its operand is OPBUF. -/
  | loadModulus
  /-- SEED_CLEAR (R125). -/
  | seedClear
  /-- SEED_ABSORB b (R128). -/
  | seedAbsorb (b : Byte)
  /-- SEED_COMMIT (R131). -/
  | seedCommit
  /-- NEXT_BITS count (R136). -/
  | nextBits (count : Byte)
  /-- RANK d (R168). -/
  | rank (d : Byte)
deriving DecidableEq, Repr

/-- The seven defined opcodes of R83. -/
inductive Opcode where
  | nop | loadModulus | seedClear | seedAbsorb | seedCommit | nextBits | rank
deriving DecidableEq, Repr

/-- The error codes 1 to 7 of R180. Code 0 is success and 8 to 15 are never produced. -/
inductive ErrorCode where
  /-- 1: OP >= 0x07. -/
  | badOpcode
  /-- 2: RSV != 0, or IMM != 0 for a command without an immediate. -/
  | reservedBits
  /-- 3: NEXT_BITS count > 32; RANK d = 0 or d > 32. -/
  | badArg
  /-- 4: OPBUF_VALUE < 2. -/
  | degenerateModulus
  /-- 5: MOD_VALID = 0. -/
  | noModulus
  /-- 6: SEEDED = 0. -/
  | unseeded
  /-- 7: SEED_NONEMPTY = 0. -/
  | emptySeed
deriving DecidableEq, Repr

end Sys2Proof
end

