-- ==== Sys2Proof/WellFormed.lean ====
section
/-! DEFINITION. Which commands are legal: the IMM ranges of R81. -/

namespace Sys2Proof

/-- The legal immediates of R81: every byte for SEED_ABSORB, 0..32 for NEXT_BITS, 1..32 for RANK. -/
def Instr.wf : Instr → Bool
  | .nop => true
  | .loadModulus => true
  | .seedClear => true
  | .seedAbsorb _ => true
  | .seedCommit => true
  | .nextBits count => decide (count.toNat ≤ 32)
  | .rank d => decide (1 ≤ d.toNat) && decide (d.toNat ≤ 32)

end Sys2Proof
end

