-- ==== Sys2Proof/Decode.lean ====
section
/-! DEFINITION. Decoding a command word (R80-R86) and, after it, the encoder (R80). -/

namespace Sys2Proof

/-- What decoding answers (R85): `Valid(cmd)` or `Error(code)`. -/
inductive Decoded where
  | valid (i : Instr)
  | error (c : ErrorCode)
deriving DecidableEq, Repr

/-- OP, bits 31:24 (R80). -/
def opField (w : Word) : Byte := w.extractLsb' 24 8

/-- RSV, bits 23:8 (R80). -/
def rsvField (w : Word) : BitVec 16 := w.extractLsb' 8 16

/-- IMM, bits 7:0 (R80). -/
def immField (w : Word) : Byte := w.extractLsb' 0 8

/-- The opcode map of R83; `none` for the reserved values 0x07-0xFF. -/
def Opcode.ofField (op : Byte) : Option Opcode :=
  match op.toNat with
  | 0 => some .nop
  | 1 => some .loadModulus
  | 2 => some .seedClear
  | 3 => some .seedAbsorb
  | 4 => some .seedCommit
  | 5 => some .nextBits
  | 6 => some .rank
  | _ => none

/-- Whether the command of this opcode takes an immediate (R81). -/
def Opcode.takesImm : Opcode → Bool
  | .nop => false
  | .loadModulus => false
  | .seedClear => false
  | .seedAbsorb => true
  | .seedCommit => false
  | .nextBits => true
  | .rank => true

/-- The command of an opcode and an IMM field. A command without an operand drops the field, which
R85 has by then checked to be 0. -/
def Opcode.instr : Opcode → Byte → Instr
  | .nop, _ => .nop
  | .loadModulus, _ => .loadModulus
  | .seedClear, _ => .seedClear
  | .seedAbsorb, imm => .seedAbsorb imm
  | .seedCommit, _ => .seedCommit
  | .nextBits, imm => .nextBits imm
  | .rank, imm => .rank imm

/-- `Decode` of R85: the checks in its order, the first that fails deciding the code. It reads only
the word. -/
def decode (w : Word) : Decoded :=
  match Opcode.ofField (opField w) with
  | none => .error .badOpcode
  | some op =>
    if rsvField w ≠ 0 then .error .reservedBits
    else if op.takesImm = false ∧ immField w ≠ 0 then .error .reservedBits
    else if (op.instr (immField w)).wf = false then .error .badArg
    else .valid (op.instr (immField w))

/-- The instruction the decoder reads from a table row's bits; every bit from `nbits` up is 0. A
command is exactly one 32-bit word (R86). -/
def decodeTableWord (nbits w : Nat) : Option Instr :=
  match decode (BitVec.ofNat 32 (w % 2 ^ nbits)) with
  | .valid i => some i
  | .error _ => none

/-- The OP value of each opcode (R83). -/
def Opcode.field : Opcode → Byte
  | .nop => 0x00
  | .loadModulus => 0x01
  | .seedClear => 0x02
  | .seedAbsorb => 0x03
  | .seedCommit => 0x04
  | .nextBits => 0x05
  | .rank => 0x06

/-- The opcode of a command. -/
def Instr.opcode : Instr → Opcode
  | .nop => .nop
  | .loadModulus => .loadModulus
  | .seedClear => .seedClear
  | .seedAbsorb _ => .seedAbsorb
  | .seedCommit => .seedCommit
  | .nextBits _ => .nextBits
  | .rank _ => .rank

/-- The IMM value of a command: its operand, or 0 (R81, R87). -/
def Instr.imm : Instr → Byte
  | .nop => 0
  | .loadModulus => 0
  | .seedClear => 0
  | .seedAbsorb b => b
  | .seedCommit => 0
  | .nextBits count => count
  | .rank d => d

/-- `enc(op, imm) = (op << 24) | imm` of R80. -/
def enc (op imm : Byte) : Word := (op.setWidth 32 <<< 24) ||| imm.setWidth 32

/-- The word of a command (R80, R87). -/
def encode (i : Instr) : Word := enc i.opcode.field i.imm

/-- The mnemonic of a command, as R87 spells it. -/
def Instr.mnemonic : Instr → String
  | .nop => "NOP"
  | .loadModulus => "LOAD_MODULUS"
  | .seedClear => "SEED_CLEAR"
  | .seedAbsorb _ => "SEED_ABSORB"
  | .seedCommit => "SEED_COMMIT"
  | .nextBits _ => "NEXT_BITS"
  | .rank _ => "RANK"

/-- The command as R87 writes it: the mnemonic, then the operand of a command that takes one, in
decimal. -/
def Instr.assembly (i : Instr) : String :=
  if i.opcode.takesImm then i.mnemonic ++ " " ++ toString i.imm.toNat else i.mnemonic

end Sys2Proof
end

