-- ==== Sys2Proof/Config.lean ====
section
/-! DEFINITION. The implementation parameters of R7, the values they take in `State.reset`, and the
free value that stands for the spec's `Unspecified32` draw (R11). -/

namespace Sys2Proof

/-- The parameters of R7 that a rule reads. They never change while the machine runs. LAT has no
value here: the schedule in the state stands for it (log 2). -/
structure Params where
  /-- `W`: width in bits of N, STATE, SEED_ACC and OPBUF. -/
  W : Nat
  /-- `BASE`: bus address of register offset 0x0000. -/
  base : Nat
deriving DecidableEq, Repr

/-- `NW = W / 32`, the number of OPBUF words (R7). -/
def Params.nw (p : Params) : Nat := p.W / 32

/-- The constraints R7 puts on the parameters: `W mod 32 = 0`, `32 <= W <= 32768`, BASE aligned to
8 KiB. -/
abbrev Params.Legal (p : Params) : Prop :=
  p.W % 32 = 0 ∧ 32 ≤ p.W ∧ p.W ≤ 32768 ∧ p.base % 0x2000 = 0

/-- `MAT_N` of R7: the side of the largest square matrix the rank unit holds. -/
def Config.matN : Nat := 32

/-- The parameters of `State.reset`. R7 leaves both OPEN. DESIGN CHOICE (log 3): W = 64, the width
most of the spec's vectors use, and BASE = 0. Unsafe for a claim about `State.reset` itself; claims
are therefore stated over `State.resetOf p` for every `p`. -/
def Config.params : Params := { W := 64, base := 0 }

/-- `Unspecified32` (R11): draw number `k` of the run. It has no body, so no proof can use a value
of it (log 4). -/
opaque Config.freeValue : Nat → BitVec 32

end Sys2Proof
end

