-- ==== Sys2Proof/Machine/State.lean ====
section
/-! DEFINITION. The block's state as plain data (R20-R51), its inputs and its reset value (R48). -/

namespace Sys2Proof.Machine

/-- Why the machine stops. There is no reason: a failed command is a next state (R183), and a command
that consumes an unwritten word goes on with free values (R50, log 7). -/
inductive Fault where
deriving DecidableEq, Repr

/-- A fault of the MODEL in the words of R50 and R110, which is no hardware error code and which the machine
runs on after: it is recorded in the state, so that a claim can leave out the runs that R50 wants no
proof to cover (log 7). -/
inductive ModelFault where
  /-- A completion of LOAD_MODULUS consumed an unwritten OPBUF word. -/
  | unwrittenOpbuf
  /-- A completion of RANK d consumed an unwritten row below d. -/
  | unwrittenMatrix
deriving DecidableEq, Repr

/-- Why the model declines an instruction. -/
inductive Refusal where
  /-- An instruction without a meaning. No arm of `exec` raises it: every command is modelled.
  Safe. -/
  | notModelled (mnemonic : String)
deriving DecidableEq, Repr

/-- One word of OPBUF or one row of MATRIX, with the model-only written-flag of R50. While
`written` is false no rule reads `val`. -/
structure BufWord where
  val : Word
  written : Bool
deriving DecidableEq, Repr

/-- A word or row as reset leaves it: unwritten. The value 0 is never read (log 5). -/
def BufWord.unwritten : BufWord := { val := 0, written := false }

/-- The operand buffer or the matrix buffer: its words by index. -/
abbrev Buffer := List BufWord

/-- A buffer of `n` unwritten words (R48). -/
def Buffer.fresh (n : Nat) : Buffer := List.replicate n BufWord.unwritten

/-- One step's agent and what it does (R110). `addr` is a bus address and `width` the access width in
bits; R62 takes only aligned 32-bit accesses inside the window, and every other is here to be
refused by it (so the data of a write need be no wider than a word, log 16). -/
inductive Event where
  /-- A host read (R110 a). -/
  | busRead (width addr : Nat)
  /-- A host write of `v` (R110 a). -/
  | busWrite (width addr : Nat) (v : Word)
  /-- The engine's completion step takes place here (R110 b). -/
  | complete
  /-- The reset input is asserted (R110 c). -/
  | resetInput
deriving DecidableEq, Repr

/-- What the host gets back from a transaction (R60). -/
inductive Response where
  /-- A read's 32-bit value. -/
  | data (v : Word)
  /-- A write was taken, dropped writes included (R106). -/
  | ok
  /-- The access was refused (R62). -/
  | busError
deriving DecidableEq, Repr

/-- Everything the spec gives the block (R20), and after it the model's own fields. ID, PARAM and
CMD have no storage (R23, R24, R35); STATUS.BUSY and STATUS bits 4-6 are views (R29, R33). -/
structure State where
  /-- CTRL.IRQ_EN (R25). -/
  irqEn : Bool
  /-- STATUS.DONE (R30). -/
  done : Bool
  /-- STATUS.ERR (R31). -/
  err : Bool
  /-- STATUS.ERR_CODE, four bits (R28, R31). -/
  errCode : BitVec 4
  /-- STATUS.OVERRUN (R32). -/
  overrun : Bool
  /-- BITS (R36). -/
  bits : Word
  /-- RANK_RESULT (R37). -/
  rankResult : Word
  /-- OPBUF[0..NW-1] (R39). -/
  opbuf : Buffer
  /-- MATRIX[0..31] (R38). -/
  matrix : Buffer
  /-- N, a W-bit value (R40). -/
  modulus : Nat
  /-- STATE, a W-bit value (R41). -/
  genState : Nat
  /-- SEED_ACC, a W-bit value (R42). -/
  seedAcc : Nat
  /-- MOD_VALID (R43). -/
  modValid : Bool
  /-- SEEDED (R43). -/
  seeded : Bool
  /-- SEED_NONEMPTY (R43). -/
  seedNonempty : Bool
  /-- PEND: `none`, or the command word being executed (R44). -/
  pend : Option Word
  /-- Model's own: the parameters of R7, constant (log 3). -/
  params : Params
  /-- Model's own: the steps to come, in order, as the outside world interleaves them (R110, log 2). -/
  events : List Event
  /-- Model's own: the response to the latest host transaction (R60, log 12). -/
  resp : Option Response
  /-- Model's own: how many `Unspecified32` draws the run has made (R11, log 4). -/
  draws : Nat
  /-- Model's own: the first fault of the model (R50, R110) in the run, if there was one (log 7). -/
  modelFault : Option ModelFault
deriving DecidableEq, Repr

/-- The machine right after reset (R48, R211) under the parameters `p`, with nothing scheduled. N is
unspecified there and no rule reads it while MOD_VALID = 0; 0 is the value entry U4 of
93_implementation_defined.md allows (log 6). -/
def State.resetOf (p : Params) : State where
  irqEn := false
  done := false
  err := false
  errCode := 0
  overrun := false
  bits := 0
  rankResult := 0
  opbuf := Buffer.fresh p.nw
  matrix := Buffer.fresh Config.matN
  modulus := 0
  genState := 0
  seedAcc := 0
  modValid := false
  seeded := false
  seedNonempty := false
  pend := none
  params := p
  events := []
  resp := none
  draws := 0
  modelFault := none

/-- The machine right after reset, under the parameters of `Config.params` (log 3). -/
def State.reset : State := State.resetOf Config.params

end Sys2Proof.Machine
end

