-- ==== Sys2Proof/Machine/Flags.lean ====
section
/-! DEFINITION. Error-code numbers (R180), the STATUS, CTRL and PARAM words as the bus reads them
(R24-R33), the write-one-to-clear rule (R34) and the interrupt line (R190). -/

namespace Sys2Proof

/-- The number of an error code in STATUS.ERR_CODE (R180). -/
def ErrorCode.code : ErrorCode → BitVec 4
  | .badOpcode => 1
  | .reservedBits => 2
  | .badArg => 3
  | .degenerateModulus => 4
  | .noModulus => 5
  | .unseeded => 6
  | .emptySeed => 7

namespace Machine

/-- A one-bit field placed at bit `n` of a register word. -/
def flagAt (b : Bool) (n : Nat) : Word := (BitVec.ofBool b).setWidth 32 <<< n

/-- STATUS.BUSY: 1 exactly when PEND is not `none` (R29). -/
def State.busy (s : State) : Bool := s.pend.isSome

/-- STATUS as a read returns it: the fields of R28, reserved bits 0. -/
def State.statusWord (s : State) : Word :=
  flagAt s.busy 0 ||| flagAt s.done 1 ||| flagAt s.err 2 ||| flagAt s.overrun 3 |||
    flagAt s.modValid 4 ||| flagAt s.seeded 5 ||| flagAt s.seedNonempty 6 |||
    (s.errCode.setWidth 32 <<< 8)

/-- CTRL as a read returns it: `zext_32(CTRL.IRQ_EN)` (R26). -/
def State.ctrlWord (s : State) : Word := flagAt s.irqEn 0

/-- ID (R23): the ASCII bytes "BBS", then revision 0x01. -/
def idWord : Word := 0x42425301

/-- PARAM (R24): `(32 << 16) | NW`. -/
def State.paramWord (s : State) : Word :=
  (BitVec.ofNat 32 Config.matN <<< 16) ||| BitVec.ofNat 32 s.params.nw

/-- A write of `v` to STATUS (R34): bit 1 clears DONE and bit 3 clears OVERRUN. This is also how a
host ends its handling of an error or a completion (R192). -/
def State.clearStatus (v : Word) (s : State) : State :=
  { s with
    done := s.done && !v.getLsbD 1
    overrun := s.overrun && !v.getLsbD 3 }

/-- The interrupt output (R190): `IRQ = CTRL.IRQ_EN AND (STATUS.DONE OR STATUS.OVERRUN)`. -/
def State.irq (s : State) : Bool := s.irqEn && (s.done || s.overrun)

end Machine

end Sys2Proof
end

