-- ==== Sys2Proof/Machine/Ops.lean ====
section
/-! DEFINITION. The named operations every rule is built from: buffer access, acceptance, the two
ways a command completes, a dropped write, reset, and a transaction's response. -/

namespace Sys2Proof.Machine

/-- Word `j` of a buffer. An index the buffer does not have counts as unwritten. -/
def Buffer.word (b : Buffer) (j : Nat) : BufWord := b.getD j BufWord.unwritten

/-- Write `v` to word `j`, which is written from then on (R38, R39, R50). -/
def Buffer.store (b : Buffer) (j : Nat) (v : Word) : Buffer :=
  b.set j { val := v, written := true }

/-- Whether words `0 .. n-1` have all been written since reset (R50). -/
def Buffer.allWritten (b : Buffer) (n : Nat) : Bool :=
  (List.range n).all fun j => (b.word j).written

/-- The value a command consumes from word `j` in a run that has made `k` draws: the current value, and for
an unwritten word the free value of draw `k + j` (R50, log 7). -/
def Buffer.value (b : Buffer) (k j : Nat) : Word :=
  if (b.word j).written then (b.word j).val else Config.freeValue (k + j)

/-- The one form a buffer has: `n` words, and 0 stored where nothing was written. -/
abbrev Buffer.wf (b : Buffer) (n : Nat) : Prop :=
  b.length = n ∧ ∀ w ∈ b, w.written = false → w.val = 0

/-- Acceptance of the word `w` (R101). -/
def State.accept (w : Word) (s : State) : State :=
  { s with pend := some w, done := false, err := false, errCode := 0 }

/-- The completion fields of a command that succeeded (R104), over the writes its rule made. -/
def State.succeed (s : State) : State :=
  { s with pend := none, done := true, err := false, errCode := 0 }

/-- Taking an error: the completion of a command that failed with code `c`. It writes the completion
fields of STATUS and nothing else (R104, R105, R183). The block has no trap beyond this (R191). -/
def State.fail (c : ErrorCode) (s : State) : State :=
  { s with pend := none, done := true, err := true, errCode := c.code }

/-- A write dropped because the block is busy (R106). -/
def State.dropWrite (s : State) : State := { s with overrun := true }

/-- Reset (R210): every piece of state to its value in R48. The model's own fields stand: the
parameters, what is still scheduled, the last response, the count of draws, so that a draw after a reset
is still a fresh one, and the model fault of the run (log 13). -/
def State.performReset (s : State) : State :=
  { State.resetOf s.params with
    events := s.events, resp := s.resp, draws := s.draws, modelFault := s.modelFault }

/-- What consuming words `0 .. n-1` of `b` does to the model's own fields: nothing if all are written, and
otherwise one draw for each, with the model fault `f` of R110 recorded (R50, log 7). -/
def State.consume (f : ModelFault) (b : Buffer) (n : Nat) (s : State) : State :=
  { s with
    draws := if b.allWritten n then s.draws else s.draws + n
    modelFault := if b.allWritten n then s.modelFault else s.modelFault.or (some f) }

/-- The host gets the response `r`. -/
def State.respond (r : Response) (s : State) : State := { s with resp := some r }

/-- The host gets a fresh `Unspecified32` (R11). -/
def State.respondDraw (s : State) : State :=
  { s with resp := some (.data (Config.freeValue s.draws)), draws := s.draws + 1 }

end Sys2Proof.Machine
end

