-- ==== Sys2Proof/Machine/Operands.lean ====
section
/-! DEFINITION. The operand forms of R81: the immediate (R82), OPBUF as an integer (R12) and the
d × d matrix in MATRIX (R14, R161). -/

namespace Sys2Proof.Machine

/-- The operand value of an IMM field: `zext(IMM)` (R82). -/
abbrev immValue (imm : Byte) : Nat := imm.toNat

/-- The integer of a list of words, word 0 least significant (R12). -/
def wordsValue : List Word → Nat
  | [] => 0
  | w :: ws => w.toNat + 2 ^ 32 * wordsValue ws

/-- OPBUF[0..NW-1], as a command consumes them (R50). -/
def State.opbufWords (s : State) : List Word :=
  (List.range s.params.nw).map (s.opbuf.value s.draws)

/-- `OPBUF_VALUE` (R12, R121). -/
def State.opbufValue (s : State) : Nat := wordsValue s.opbufWords

/-- `MASK_d` (R166): ones in bits `31 .. 32-d`, zeros below. -/
def rowMask (d : Nat) : Word := BitVec.allOnes 32 <<< (32 - d)

/-- Row r of the d × d matrix A for r = 0 .. d-1: the top d bits of MATRIX[r], kept in place, so that
column c is bit 31-c (R14, R161), as a command consumes it (R50). -/
def State.matrixRows (s : State) (d : Nat) : List Word :=
  (List.range d).map fun r => s.matrix.value s.draws r &&& rowMask d

/-- MATRIX with the top d bits of rows 0 .. d-1 replaced by those of `A` (R166, R168), which makes those
rows written (R50); `k` is the draw count at which the rows were consumed. -/
def writeRows (d : Nat) (A : List Word) (k : Nat) (m : Buffer) : Buffer :=
  m.mapIdx fun r row =>
    if r < d then
      { val := (A.getD r 0 &&& rowMask d) ||| (m.value k r &&& ~~~ rowMask d), written := true }
    else row

end Sys2Proof.Machine
end

