-- ==== Sys2Proof/Machine/Bus.lean ====
section
/-! DEFINITION. The host port (R60-R65): the register map (R22), reads (R221 included) and writes
(R106 included). -/

namespace Sys2Proof.Machine

/-- The register an aligned offset of the window selects (R22). -/
inductive Reg where
  | id | param | ctrl | status | cmd | bits | rankResult
  /-- MATRIX[r]. -/
  | matrix (r : Nat)
  /-- OPBUF[j]. -/
  | opbuf (j : Nat)
  /-- A reserved offset (R52). -/
  | reserved
deriving DecidableEq, Repr

/-- The size of the register window: 8 KiB (R61). -/
def windowBytes : Nat := 0x2000

/-- The register map of R22 at the aligned offset `off`, with `nw` OPBUF words. -/
def Reg.ofOffset (nw off : Nat) : Reg :=
  if off = 0x0000 then .id
  else if off = 0x0004 then .param
  else if off = 0x0008 then .ctrl
  else if off = 0x000C then .status
  else if off = 0x0010 then .cmd
  else if off = 0x0014 then .bits
  else if off = 0x0018 then .rankResult
  else if 0x0100 ≤ off ∧ off < 0x0180 then .matrix ((off - 0x0100) / 4)
  else if 0x1000 ≤ off ∧ off < 0x1000 + 4 * nw then .opbuf ((off - 0x1000) / 4)
  else .reserved

/-- The register an access of `width` bits at bus address `addr` selects; `none` for every access
that R62 refuses: another width, a misaligned offset, or an address outside the window (log 8). -/
def selectReg (p : Params) (width addr : Nat) : Option Reg :=
  if width = 32 ∧ p.base ≤ addr ∧ addr < p.base + windowBytes ∧ (addr - p.base) % 4 = 0 then
    some (Reg.ofOffset p.nw (addr - p.base))
  else none

/-- Whether PEND holds a word of this opcode (R221), judged by its OP field alone (log 9). -/
def State.pendingOp (op : Opcode) (s : State) : Bool :=
  match s.pend with
  | some w => Opcode.ofField (opField w) == some op
  | none => false

/-- The current value of a buffer word; `none` while it is unwritten (R50). -/
def BufWord.read (w : BufWord) : Option Word := if w.written then some w.val else none

/-- What a read of a register returns: `some v` for its current value (R107), `none` where it is a
draw of `Unspecified32` (R50, R221). -/
def State.readReg (s : State) : Reg → Option Word
  | .id => some idWord
  | .param => some s.paramWord
  | .ctrl => some s.ctrlWord
  | .status => some s.statusWord
  | .cmd => some 0
  | .bits => if s.pendingOp .nextBits then none else some s.bits
  | .rankResult => if s.pendingOp .rank then none else some s.rankResult
  | .matrix r => if s.pendingOp .rank then none else (s.matrix.word r).read
  | .opbuf j => (s.opbuf.word j).read
  | .reserved => some 0

/-- What a write of `v` to a register does to the block. -/
def State.writeReg (v : Word) (s : State) : Reg → State
  | .id => s
  | .param => s
  | .ctrl => if v.getLsbD 1 then s.performReset else { s with irqEn := v.getLsbD 0 }
  | .status => s.clearStatus v
  | .cmd => if s.busy then s.dropWrite else s.accept v
  | .bits => s
  | .rankResult => s
  | .matrix r => if s.busy then s.dropWrite else { s with matrix := s.matrix.store r v }
  | .opbuf j => if s.busy then s.dropWrite else { s with opbuf := s.opbuf.store j v }
  | .reserved => s

/-- A host read (R60, R62, R65): it changes nothing in the block. -/
def State.busRead (width addr : Nat) (s : State) : State :=
  match selectReg s.params width addr with
  | none => s.respond .busError
  | some r =>
    match s.readReg r with
    | some v => s.respond (.data v)
    | none => s.respondDraw

/-- A host write (R60, R62). -/
def State.busWrite (width addr : Nat) (v : Word) (s : State) : State :=
  match selectReg s.params width addr with
  | none => s.respond .busError
  | some r => (s.writeReg v r).respond .ok

end Sys2Proof.Machine
end

