-- ==== Sys2Proof/Machine/Bbs.lean ====
section
/-! DEFINITION. The BBS unit (R120-R143): LOAD_MODULUS, SEED_CLEAR, SEED_ABSORB, SEED_COMMIT and
NEXT_BITS. -/

namespace Sys2Proof.Machine

/-- LOAD_MODULUS (R122). It consumes all NW OPBUF words, an unwritten one as a free value,
with the model fault of R110 recorded (log 7). -/
def execLoadModulus (s : State) : Host.Outcome State Fault Refusal :=
  .next
    (if s.opbufValue < 2 then (s.consume .unwrittenOpbuf s.opbuf s.params.nw).fail .degenerateModulus
    else
      ({ s.consume .unwrittenOpbuf s.opbuf s.params.nw with
          modulus := s.opbufValue
          modValid := true
          genState := 0
          seeded := false
          seedAcc := 0
          seedNonempty := false } : State).succeed)

/-- SEED_CLEAR (R125): no state precondition. -/
def execSeedClear (s : State) : Host.Outcome State Fault Refusal :=
  .next ({ s with seedAcc := 0, seedNonempty := false } : State).succeed

/-- SEED_ABSORB b (R128): `SEED_ACC <- (SEED_ACC * 256 + b) mod N`, exact. -/
def execSeedAbsorb (b : Byte) (s : State) : Host.Outcome State Fault Refusal :=
  if s.modValid then
    .next
      ({ s with
          seedAcc := (s.seedAcc * 256 + immValue b) % s.modulus
          seedNonempty := true } : State).succeed
  else .next (s.fail .noModulus)

/-- SEED_COMMIT (R131): NO_MODULUS is checked before EMPTY_SEED (R182). -/
def execSeedCommit (s : State) : Host.Outcome State Fault Refusal :=
  if s.modValid then
    if s.seedNonempty then
      .next
        ({ s with
            genState := s.seedAcc
            seeded := true
            seedAcc := 0
            seedNonempty := false } : State).succeed
    else .next (s.fail .emptySeed)
  else .next (s.fail .noModulus)

/-- One BBS iteration on the state: the exact square, reduced mod N (R10, R136). -/
def square (n x : Nat) : Nat := x * x % n

/-- The loop of R136 run `k` more times from state `x` and output word `out`: square, shift the word
left, put the new state's least-significant bit in. -/
def emit (n : Nat) : Nat → Nat → Word → Nat × Word
  | 0, x, out => (x, out)
  | k + 1, x, out =>
    emit n k (square n x) ((out <<< 1) ||| BitVec.ofNat 32 (square n x % 2))

/-- NEXT_BITS count (R136). A count above 32 is BAD_ARG, which decoding reports before it gets here
(R85, log 10). -/
def execNextBits (count : Byte) (s : State) : Host.Outcome State Fault Refusal :=
  if 32 < immValue count then .next (s.fail .badArg)
  else if s.modValid then
    if s.seeded then
      .next
        ({ s with
            genState := (emit s.modulus (immValue count) s.genState 0).1
            bits := (emit s.modulus (immValue count) s.genState 0).2 } : State).succeed
    else .next (s.fail .unseeded)
  else .next (s.fail .noModulus)

end Sys2Proof.Machine
end

