-- ==== Sys2Proof/Machine/Lifecycle.lean ====
section
/-! DEFINITION. The command of no unit: NOP (R108). -/

namespace Sys2Proof.Machine

/-- NOP (R108): no writes but the completion fields. -/
def execNop (s : State) : Host.Outcome State Fault Refusal := .next s.succeed

end Sys2Proof.Machine
end

