-- ==== Sys2Proof/Machine/Gf2.lean ====
section
/-! DEFINITION. The two-pass elimination over GF(2) of R162-R167, on a list of row words whose column
c is bit 31-c. -/

namespace Sys2Proof.Machine.Gf2

/-- Entry (r, c): bit `31 - c` of row r (R14). -/
def entry (A : List Word) (r c : Nat) : Bool := (A.getD r 0).getLsbD (31 - c)

/-- Rows i and k exchanged (R163, R166). -/
def swapRows (A : List Word) (i k : Nat) : List Word :=
  (A.set i (A.getD k 0)).set k (A.getD i 0)

/-- The candidates of the forward pass at step i: the indices k with i < k < d, in increasing order
(R163). -/
def below (d i : Nat) : List Nat := (List.range d).filter fun k => i < k

/-- The candidates of the backward pass at step i: the indices k < i, nearest first (R164). -/
def above (i : Nat) : List Nat := (List.range i).reverse

/-- The optional swap of one step: if the pivot entry is 0, the first candidate row with a 1 in
column i is swapped in (R163-R165). -/
def pivotSwap (A : List Word) (i : Nat) (cands : List Nat) : List Word :=
  if entry A i i then A
  else
    match cands.find? fun k => entry A k i with
    | some k => swapRows A i k
    | none => A

/-- If the pivot entry is 1, the pivot row is added to every row of `cands` with a 1 in column i
(R163, R164, R166). -/
def clearColumn (A : List Word) (i : Nat) (cands : List Nat) : List Word :=
  if entry A i i then
    A.mapIdx fun k row => if k ∈ cands ∧ row.getLsbD (31 - i) then row ^^^ A.getD i 0 else row
  else A

/-- One step of a pass over the candidate rows `cands`. -/
def passStep (A : List Word) (i : Nat) (cands : List Nat) : List Word :=
  clearColumn (pivotSwap A i cands) i cands

/-- Step i of the forward pass (R163). -/
def forwardStep (d : Nat) (A : List Word) (i : Nat) : List Word := passStep A i (below d i)

/-- Step i of the backward pass (R164). -/
def backwardStep (A : List Word) (i : Nat) : List Word := passStep A i (above i)

/-- The forward pass: i = 0, 1, ..., d-2 (R163). -/
def forwardPass (d : Nat) (A : List Word) : List Word :=
  (List.range (d - 1)).foldl (forwardStep d) A

/-- The backward pass: i = d-1, d-2, ..., 1 (R164). -/
def backwardPass (d : Nat) (A : List Word) : List Word :=
  (List.range (d - 1)).reverse.foldl (fun B j => backwardStep B (j + 1)) A

/-- Both passes (R168). -/
def eliminate (d : Nat) (A : List Word) : List Word := backwardPass d (forwardPass d A)

/-- The number of rows that are not entirely zero (R167). -/
def nonzeroRows (A : List Word) : Nat := A.countP fun row => row ≠ 0

end Sys2Proof.Machine.Gf2
end

