-- ==== Sys2Proof/Machine/Rank.lean ====
section
/-! DEFINITION. The rank unit (R160-R171): RANK. -/

namespace Sys2Proof.Machine

/-- RANK d (R168), in place on the top d bits of rows 0 .. d-1. d = 0 and d > 32 are BAD_ARG, which
decoding reports before it gets here (R85, log 10). It consumes rows 0 .. d-1, an unwritten one as a free
value, with the model fault of R110 recorded (log 7). -/
def execRank (d : Byte) (s : State) : Host.Outcome State Fault Refusal :=
  if immValue d = 0 ∨ 32 < immValue d then .next (s.fail .badArg)
  else
    .next
      ({ s.consume .unwrittenMatrix s.matrix (immValue d) with
          matrix :=
            writeRows (immValue d) (Gf2.eliminate (immValue d) (s.matrixRows (immValue d))) s.draws
              s.matrix
          rankResult :=
            BitVec.ofNat 32
              (Gf2.nonzeroRows (Gf2.eliminate (immValue d) (s.matrixRows (immValue d)))) } :
        State).succeed

end Sys2Proof.Machine
end

