-- ==== Sys2Proof/Machine/Dispatch.lean ====
section
/-! DEFINITION. `exec`: one arm per command, each a direct call of its meaning. -/

namespace Sys2Proof.Machine

def exec (i : Instr) (s : State) : Host.Outcome State Fault Refusal :=
  match i with
  | .nop => Sys2Proof.Machine.execNop s
  | .loadModulus => Sys2Proof.Machine.execLoadModulus s
  | .seedClear => Sys2Proof.Machine.execSeedClear s
  | .seedAbsorb b => Sys2Proof.Machine.execSeedAbsorb b s
  | .seedCommit => Sys2Proof.Machine.execSeedCommit s
  | .nextBits count => Sys2Proof.Machine.execNextBits count s
  | .rank d => Sys2Proof.Machine.execRank d s

end Sys2Proof.Machine
end

