-- ==== Sys2Proof/Machine/Engine.lean ====
section
/-! DEFINITION. The engine's completion step (R102-R104), one event of the schedule (R110), and the
placing of a command word for the next step. -/

namespace Sys2Proof.Machine

/-- The completion step (R104): decode the pending word, then fail with the decoder's code or execute
the command. With PEND = none it is not enabled (R102) and nothing happens. -/
def completion (s : State) : Host.Outcome State Fault Refusal :=
  match s.pend with
  | none => .next s
  | some w =>
    match decode w with
    | .error c => .next (s.fail c)
    | .valid i => exec i s

/-- One step of R110, of the agent the event names. -/
def runEvent (e : Event) (s : State) : Host.Outcome State Fault Refusal :=
  match e with
  | .busRead width addr => .next (s.busRead width addr)
  | .busWrite width addr v => .next (s.busWrite width addr v)
  | .complete => completion s
  | .resetInput => .next s.performReset

/-- The next event of the schedule. When nothing is scheduled the engine moves: a pending command
completes, which is the weak fairness of R103, and an idle block stays as it is (log 2). -/
def nextEvent (s : State) : Event × List Event :=
  match s.events with
  | [] => (.complete, [])
  | e :: rest => (e, rest)

/-- The word `w` accepted (R101), with its completion the next step (log 1). -/
def State.placeCommand (w : Word) (s : State) : State :=
  { s.accept w with events := .complete :: s.events }

end Sys2Proof.Machine
end

