-- ==== Sys2Proof/Machine/Step.lean ====
section
/-! DEFINITION. One step of the machine (R110), and where a command is put so that the next step runs
it. -/

namespace Sys2Proof.Machine

/-- One step: the next event of the schedule is taken off it and performed. -/
def step (s : State) : Host.Outcome State Fault Refusal :=
  runEvent (nextEvent s).1 { s with events := (nextEvent s).2 }

/-- `s` with the command word of a table row as its pending command and the completion of it as its
next step. The block fetches nothing (R2, R72): PEND is where the engine takes its word from
(log 1). -/
def State.withFetchWord (s : State) (nbits w : Nat) : State :=
  s.placeCommand (BitVec.ofNat 32 (w % 2 ^ nbits))

end Sys2Proof.Machine
end

