-- ==== Sys2Proof/Machine/HostProgram.lean ====
section
/-! DEFINITION. What a host puts on the schedule: the transactions and pseudo-instructions of R88 and
R89, and the bit-buffer layouts of R214 and R215. -/

namespace Sys2Proof.Machine

/-- The offset of a register in the window (R22). For `reserved`, a whole range of offsets there, it is the
first of them (log 25). -/
def Reg.offset : Reg → Nat
  | .id => 0x0000
  | .param => 0x0004
  | .ctrl => 0x0008
  | .status => 0x000C
  | .cmd => 0x0010
  | .bits => 0x0014
  | .rankResult => 0x0018
  | .matrix r => 0x0100 + 4 * r
  | .opbuf j => 0x1000 + 4 * j
  | .reserved => 0x001C

/-- `wr <reg>, v` (R88). -/
def wrEvent (p : Params) (r : Reg) (v : Word) : Event := .busWrite 32 (p.base + r.offset) v

/-- `rd <reg>` (R88). -/
def rdEvent (p : Params) (r : Reg) : Event := .busRead 32 (p.base + r.offset)

/-- `cmd <command>` (R88). -/
def cmdEvent (p : Params) (i : Instr) : Event := wrEvent p .cmd (encode i)

/-- `wait` (R89) in the run where `polls` reads of STATUS come before the completion; the read after
it sees BUSY = 0 and ends the loop (log 17). -/
def waitEvents (p : Params) (polls : Nat) : List Event :=
  List.replicate polls (rdEvent p .status) ++ [.complete, rdEvent p .status]

/-- `exec <command>` (R89). -/
def execEvents (p : Params) (polls : Nat) (i : Instr) : List Event :=
  cmdEvent p i :: waitEvents p polls

/-- `seed b_0, ..., b_(L-1)` (R89, R133), for L >= 1 (log 25). Each command has its own delay (R103), so
`polls i` is the number of polls of the sequence's command `i`, SEED_CLEAR being command 0 (log 17). -/
def seedEvents (p : Params) (polls : Nat → Nat) (bytes : List Byte) : List Event :=
  execEvents p (polls 0) .seedClear ++
    (bytes.mapIdx fun i b => execEvents p (polls (i + 1)) (.seedAbsorb b)).flatten ++
    execEvents p (polls (bytes.length + 1)) .seedCommit

/-- `loadn v` (R89), for v < 2^W (log 25): word j of `v` to OPBUF[j], then LOAD_MODULUS. -/
def loadnEvents (p : Params) (polls : Nat) (v : Nat) : List Event :=
  (List.range p.nw).map (fun j => wrEvent p (.opbuf j) (BitVec.ofNat 32 (v >>> (32 * j)))) ++
    execEvents p polls .loadModulus

/-- `loadm m_0, ..., m_(k-1)` (R89), for k <= 32 (log 25). -/
def loadmEvents (p : Params) (rows : List Word) : List Event :=
  rows.mapIdx fun r m => wrEvent p (.matrix r) m

/-- `SeedValue(b)` (R13): unsigned, the first byte most significant. -/
def seedValue (bytes : List Byte) : Nat := bytes.foldl (fun a b => a * 256 + b.toNat) 0

/-- Row r of matrix k of the byte buffer `B` (R214): four bytes, the first in bits 31:24. DESIGN CHOICE: a
byte past the end of the buffer reads as 0, where R214 leaves what fills no matrix to the host
(log 24). -/
def bufferRow (B : List Byte) (k r : Nat) : Word :=
  B.getD (128 * k + 4 * r) 0 ++ B.getD (128 * k + 4 * r + 1) 0 ++
    B.getD (128 * k + 4 * r + 2) 0 ++ B.getD (128 * k + 4 * r + 3) 0

/-- Bit i of a byte buffer, counted most-significant-bit first within each byte (R214, R215). A bit past
the end reads as 0 (log 24). -/
def bufferBit (B : List Byte) (i : Nat) : Bool := (B.getD (i / 8) 0).getLsbD (7 - i % 8)

/-- The buffer bytes that a read of BITS after `NEXT_BITS 32` gives, first emitted first (R215). -/
def bytesOfBits (w : Word) : List Byte :=
  [w.extractLsb' 24 8, w.extractLsb' 16 8, w.extractLsb' 8 8, w.extractLsb' 0 8]

end Sys2Proof.Machine
end

