-- ==== Sys2Proof/Machine/Invariant.lean ====
section
/-! DEFINITION. What holds of the block at all times: the invariants of R45, and the shape of the
plain data the state is made of. -/

namespace Sys2Proof.Machine

/-- The five invariants of R45, in its order. -/
abbrev State.RuleInv (s : State) : Prop :=
  (s.seeded = true → s.modValid = true ∧ s.genState < s.modulus) ∧
  (s.seedNonempty = true → s.modValid = true) ∧
  (s.modValid = true → s.seedAcc < s.modulus ∧ 2 ≤ s.modulus) ∧
  (s.busy = true ↔ s.pend ≠ none) ∧
  (s.busy = true → s.done = false)

/-- The parameters are legal (R7) and the buffers have the sizes of R38 and R39, in their one form. -/
abbrev State.Shape (s : State) : Prop :=
  s.params.Legal ∧ s.opbuf.wf s.params.nw ∧ s.matrix.wf Config.matN

/-- The hidden registers are W bits wide (R40-R42). -/
abbrev State.Widths (s : State) : Prop :=
  s.modulus < 2 ^ s.params.W ∧ s.genState < 2 ^ s.params.W ∧ s.seedAcc < 2 ^ s.params.W

/-- ERR and ERR_CODE agree and no reserved code is there (R31, R180); RANK_RESULT is a rank (R37). -/
abbrev State.Results (s : State) : Prop :=
  (s.err = true ↔ s.errCode ≠ 0) ∧ s.errCode.toNat ≤ 7 ∧ s.rankResult.toNat ≤ 32

end Sys2Proof.Machine
end

