-- ==== Sys2Proof/Safety.lean ====
section
/-! DEFINITION. The terms claims are stated in: what counts as a safe run, and what the next step of a
state is. -/

namespace Sys2Proof

open Machine

/-- The step at `s` goes on. -/
def Goes (s : State) : Prop := ∃ t, step s = .next t

/-- `t` is reached from `s` by steps that all go on. -/
inductive Reaches : State → State → Prop where
  | refl (s : State) : Reaches s s
  | tail {s t u : State} : Reaches s t → step t = .next u → Reaches s u

/-- The run from `s` is safe: it never stops with a fault or a refusal. -/
def SafeRun (s : State) : Prop := ∀ t, Reaches s t → Goes t

/-- The commands of the list run one after the other from `s`, each going on, and end in the last
state. -/
inductive ExecAll : List Instr → State → State → Prop where
  | nil (s : State) : ExecAll [] s s
  | cons {i : Instr} {is : List Instr} {s t u : State} :
    exec i s = .next t → ExecAll is t u → ExecAll (i :: is) s u

/-- The next step of `s` is the completion of a pending command (R102). -/
def CompletesAny (s : State) : Prop := (nextEvent s).1 = .complete ∧ s.pend ≠ none

/-- The next step of `s` is the completion of the legal command `i` (R104). -/
def Completes (i : Instr) (s : State) : Prop :=
  (nextEvent s).1 = .complete ∧ ∃ w, s.pend = some w ∧ decode w = .valid i

/-- The next step of `s` is a host write of `v` to the register `r`. -/
def HostWrites (r : Reg) (v : Word) (s : State) : Prop :=
  ∃ addr, (nextEvent s).1 = .busWrite 32 addr v ∧ selectReg s.params 32 addr = some r

/-- The next step of `s` is a reset, by the reset input or by a CTRL write (R210). -/
def Resets (s : State) : Prop :=
  (nextEvent s).1 = .resetInput ∨ ∃ v : Word, v.getLsbD 1 = true ∧ HostWrites .ctrl v s

end Sys2Proof
end

