-- ==== Sys2Proof/Certificates/Slice0/Obligations.lean ====
section
/-! DEFINITION. The statements for the provers, written from the numbered rules of the spec. -/

open Sys2Proof Sys2Proof.Machine

/-! ### Terms of the statements, written from the rules and not from the model's definitions -/

/-- The word with the fields OP (31:24), RSV (23:8) and IMM (7:0) of R80. -/
def Sys2Proof.wordOf (op rsv imm : Nat) : Word :=
  BitVec.ofNat 8 op ++ BitVec.ofNat 16 rsv ++ BitVec.ofNat 8 imm

/-- `OPBUF_VALUE` as R12 writes it: a sum over the words. -/
def Sys2Proof.opbufSum (s : State) : Nat :=
  ∑ j ∈ Finset.range s.params.nw, (s.opbuf.word j).val.toNat * 2 ^ (32 * j)

/-- `SeedValue(b)` as R13 writes it: a sum over the bytes. -/
def Sys2Proof.seedSum (bytes : List Byte) : Nat :=
  ∑ i ∈ Finset.range bytes.length, (bytes.getD i 0).toNat * 256 ^ (bytes.length - 1 - i)

/-- The state after `k` squarings modulo `n` from `x` (R136). -/
def Sys2Proof.squared (n k x : Nat) : Nat := (fun y => y * y % n)^[k] x

/-- Entry (r, c) of the matrix in MATRIX: bit `31 - c` of row r (R14). -/
def Sys2Proof.matrixEntry (s : State) (r c : Nat) : Bool := (s.matrix.word r).val.getLsbD (31 - c)

/-- The d × d matrix of R161 over GF(2). -/
def Sys2Proof.gf2Matrix (s : State) (d : Nat) : Matrix (Fin d) (Fin d) (ZMod 2) :=
  Matrix.of fun r c => if matrixEntry s r c then 1 else 0

/-- Rows 0 .. d-1 of MATRIX have been written since reset (R50). -/
def Sys2Proof.RowsWritten (s : State) (d : Nat) : Prop :=
  ∀ r < d, (s.matrix.word r).written = true

/-- `t` is a state right after a reset: the first state of a run, or what a reset step leaves. -/
def Sys2Proof.AfterReset (t : State) : Prop :=
  (∃ p, t = State.resetOf p) ∨ ∃ s, Resets s ∧ step s = .next t

/-! ### Encoding -/

/-- R85: the checks of decoding in their order, for every word. -/
def Obligations.DecodeChecksInOrder : Prop :=
  ∀ op rsv imm : Nat, op < 256 → rsv < 65536 → imm < 256 →
    decode (wordOf op rsv imm) =
      if 7 ≤ op then .error .badOpcode
      else if rsv ≠ 0 then .error .reservedBits
      else if (op = 0 ∨ op = 1 ∨ op = 2 ∨ op = 4) ∧ imm ≠ 0 then .error .reservedBits
      else if (op = 5 ∧ 32 < imm) ∨ (op = 6 ∧ (imm = 0 ∨ 32 < imm)) then .error .badArg
      else if op = 0 then .valid .nop
      else if op = 1 then .valid .loadModulus
      else if op = 2 then .valid .seedClear
      else if op = 3 then .valid (.seedAbsorb (BitVec.ofNat 8 imm))
      else if op = 4 then .valid .seedCommit
      else if op = 5 then .valid (.nextBits (BitVec.ofNat 8 imm))
      else .valid (.rank (BitVec.ofNat 8 imm))

/-- Decoding the word of a command gives the command back if it is legal, and BAD_ARG if not. -/
def Obligations.DecodeEncodeRoundTrip : Prop :=
  ∀ i : Instr, decode (encode i) = if i.wf = true then .valid i else .error .badArg

/-- A word that decodes to a command is that command's only word, and the command is legal. -/
def Obligations.EncodeDecodeRoundTrip : Prop :=
  ∀ (w : Word) (i : Instr), decode w = .valid i → encode i = w ∧ i.wf = true

/-- Words written out from the opcode map decode to the command they stand for. -/
def Obligations.WrittenOutWordsDecode : Prop :=
  decode 0x00000000 = .valid .nop ∧ decode 0x01000000 = .valid .loadModulus ∧
  decode 0x02000000 = .valid .seedClear ∧ decode 0x03000012 = .valid (.seedAbsorb 0x12) ∧
  decode 0x04000000 = .valid .seedCommit ∧ decode 0x05000020 = .valid (.nextBits 32) ∧
  decode 0x06000020 = .valid (.rank 32) ∧ decode 0x07000100 = .error .badOpcode

/-! ### The command lifecycle -/

/-- The completion step of a pending legal word is `exec` of its command, whether the schedule names
the step or has run out (log 1, log 2). -/
def Obligations.StepRunsPendingCommand : Prop :=
  ∀ (s : State) (w : Word) (i : Instr) (rest : List Event),
    s.pend = some w → decode w = .valid i →
    (s.events = .complete :: rest ∨ (s.events = [] ∧ rest = [])) →
    step s = exec i { s with events := rest }

/-- R84: an illegal word written to CMD while idle is accepted and sets BUSY, and its completion
reports its own error and changes nothing else. -/
def Obligations.IllegalWordsCompleteWithTheirError : Prop :=
  ∀ (s : State) (rest : List Event) (op rsv imm : Nat) (c : BitVec 4),
    op < 256 → rsv < 65536 → imm < 256 → s.pend = none →
    s.events = .busWrite 32 (s.params.base + 0x0010) (wordOf op rsv imm) :: .complete :: rest →
    ((7 ≤ op ∧ c = 1) ∨
      (op < 7 ∧ (rsv ≠ 0 ∨ ((op = 0 ∨ op = 1 ∨ op = 2 ∨ op = 4) ∧ imm ≠ 0)) ∧ c = 2) ∨
      (rsv = 0 ∧ ((op = 5 ∧ 33 ≤ imm) ∨ (op = 6 ∧ (imm = 0 ∨ 33 ≤ imm))) ∧ c = 3)) →
    ∃ t, step s = .next t ∧ t.busy = true ∧
      step t = .next { s with
        events := rest, resp := some .ok
        pend := none, done := true, err := true, errCode := c }

/-- R101: a write to CMD while idle accepts the word, whatever it is. -/
def Obligations.IdleCmdWriteAccepts : Prop :=
  ∀ (s : State) (v : Word) (rest : List Event),
    s.pend = none → s.events = .busWrite 32 (s.params.base + 0x0010) v :: rest →
    step s = .next { s with
      events := rest, pend := some v, done := false, err := false, errCode := 0, resp := some .ok }

/-- R106: while busy, a write to CMD, an OPBUF word or a MATRIX row sets OVERRUN and nothing else; any
other write leaves what it leaves when idle. -/
def Obligations.BusyWritesAreDropped : Prop :=
  ∀ (s : State) (w v : Word) (off : Nat) (rest : List Event),
    s.params.Legal → s.pend = some w →
    s.events = .busWrite 32 (s.params.base + off) v :: rest →
    ((off = 0x0010 ∨ (∃ j < s.params.nw, off = 0x1000 + 4 * j) ∨ ∃ r < 32, off = 0x0100 + 4 * r) →
      step s = .next { s with events := rest, overrun := true, resp := some .ok }) ∧
    (¬ (off = 0x0010 ∨ (∃ j < s.params.nw, off = 0x1000 + 4 * j) ∨
        ∃ r < 32, off = 0x0100 + 4 * r) →
      ∃ t u, step s = .next t ∧ step { s with pend := none } = .next u ∧
        { t with pend := none } = u)

/-- A completion that reports an error changes only the completion fields (R105, R183); the model's own draw
count and model fault move too where LOAD_MODULUS consumed an unwritten word (log 4, log 7). -/
def Obligations.FailedCommandsWriteNothingElse : Prop :=
  ∀ s t : State, CompletesAny s → step s = .next t → t.err = true →
    1 ≤ t.errCode.toNat ∧ t.errCode.toNat ≤ 7 ∧
    (t.draws ≠ s.draws ∨ t.modelFault ≠ s.modelFault →
      Completes .loadModulus s ∧ ∃ j < s.params.nw, (s.opbuf.word j).written = false) ∧
    t = { s with
      events := (nextEvent s).2, draws := t.draws, modelFault := t.modelFault
      pend := none, done := true, err := true, errCode := t.errCode }

/-- R182: the code a completion reports is the first that applies, in the order given; 0 if none does.
The words a legal LOAD_MODULUS or RANK consumes are written, as R50 asks: the other case is the model's
choice (log 7) and has statements of its own. -/
def Obligations.ErrorPriority : Prop :=
  ∀ (s : State) (op rsv imm : Nat),
    op < 256 → rsv < 65536 → imm < 256 →
    (nextEvent s).1 = .complete → s.pend = some (wordOf op rsv imm) →
    (decode (wordOf op rsv imm) = .valid .loadModulus →
      ∀ j < s.params.nw, (s.opbuf.word j).written = true) →
    (∀ d, decode (wordOf op rsv imm) = .valid (.rank d) → RowsWritten s d.toNat) →
    ∃ t, step s = .next t ∧ t.err = decide (t.errCode ≠ 0) ∧
      t.errCode =
        if 7 ≤ op then 1
        else if rsv ≠ 0 then 2
        else if (op = 0 ∨ op = 1 ∨ op = 2 ∨ op = 4) ∧ imm ≠ 0 then 2
        else if (op = 5 ∧ 32 < imm) ∨ (op = 6 ∧ (imm = 0 ∨ 32 < imm)) then 3
        else if op = 1 ∧ opbufSum s < 2 then 4
        else if (op = 3 ∨ op = 4 ∨ op = 5) ∧ s.modValid = false then 5
        else if op = 4 ∧ s.seedNonempty = false then 7
        else if op = 5 ∧ s.seeded = false then 6
        else 0

/-- Whatever is scheduled, a pending command is still pending when its completion or a reset comes,
and one of them comes within as many steps as are scheduled. The schedule and its end are the
model's choice (log 2). -/
def Obligations.PendingCommandComesToItsEnd : Prop :=
  ∀ (s : State) (w : Word), s.pend = some w →
    ∃ k ≤ s.events.length, ∃ u, Sys2Proof.core.run k s = .next u ∧ u.pend = some w ∧
      (CompletesAny u ∨ Resets u)

/-- While a command is pending, only its completion or a reset changes what commands read. -/
def Obligations.OperandsFrozenWhilePending : Prop :=
  ∀ s t : State, s.pend ≠ none → step s = .next t → ¬ CompletesAny s → ¬ Resets s →
    t.pend = s.pend ∧ t.opbuf = s.opbuf ∧ t.matrix = s.matrix ∧ t.modulus = s.modulus ∧
    t.genState = s.genState ∧ t.seedAcc = s.seedAcc ∧ t.modValid = s.modValid ∧
    t.seeded = s.seeded ∧ t.seedNonempty = s.seedNonempty

/-! ### The commands -/

/-- R108: NOP. -/
def Obligations.NopRule : Prop :=
  encode .nop = 0x00000000 ∧
  (∀ rsv imm : Nat, rsv < 65536 → imm < 256 → decode (wordOf 0 rsv imm) =
    if rsv = 0 ∧ imm = 0 then .valid .nop else .error .reservedBits) ∧
  ∀ s : State, exec .nop s =
    .next { s with pend := none, done := true, err := false, errCode := 0 }

/-- R122: LOAD_MODULUS, where every OPBUF word has been written. -/
def Obligations.LoadModulusRule : Prop :=
  encode .loadModulus = 0x01000000 ∧
  (∀ rsv imm : Nat, rsv < 65536 → imm < 256 → decode (wordOf 1 rsv imm) =
    if rsv = 0 ∧ imm = 0 then .valid .loadModulus else .error .reservedBits) ∧
  ∀ s : State, (∀ j < s.params.nw, (s.opbuf.word j).written = true) →
    (opbufSum s < 2 → exec .loadModulus s =
      .next { s with pend := none, done := true, err := true, errCode := 4 }) ∧
    (2 ≤ opbufSum s → exec .loadModulus s =
      .next { s with
        modulus := opbufSum s, modValid := true
        genState := 0, seeded := false, seedAcc := 0, seedNonempty := false
        pend := none, done := true, err := false, errCode := 0 })

/-- LOAD_MODULUS where some OPBUF word is unwritten: it runs, with a free value for each such word, and
fails or loads by the value the words then have, with the model fault of R110 recorded. That the machine goes on with free values, and how they
are counted, is the model's choice (log 4, log 7). -/
def Obligations.LoadModulusRunsOnUnwrittenWords : Prop :=
  ∀ (s : State) (word : Nat → Word) (v : Nat),
    (∃ j < s.params.nw, (s.opbuf.word j).written = false) →
    (∀ j < s.params.nw, word j =
      if (s.opbuf.word j).written then (s.opbuf.word j).val else Config.freeValue (s.draws + j)) →
    v = ∑ j ∈ Finset.range s.params.nw, (word j).toNat * 2 ^ (32 * j) →
    exec .loadModulus s = .next
      (if v < 2 then
        { s with
          draws := s.draws + s.params.nw
          modelFault := s.modelFault.or (some .unwrittenOpbuf)
          pend := none, done := true, err := true, errCode := 4 }
      else
        { s with
          draws := s.draws + s.params.nw
          modelFault := s.modelFault.or (some .unwrittenOpbuf)
          modulus := v, modValid := true
          genState := 0, seeded := false, seedAcc := 0, seedNonempty := false
          pend := none, done := true, err := false, errCode := 0 })

/-- R125: SEED_CLEAR. -/
def Obligations.SeedClearRule : Prop :=
  encode .seedClear = 0x02000000 ∧
  (∀ rsv imm : Nat, rsv < 65536 → imm < 256 → decode (wordOf 2 rsv imm) =
    if rsv = 0 ∧ imm = 0 then .valid .seedClear else .error .reservedBits) ∧
  ∀ s : State, exec .seedClear s =
    .next { s with
      seedAcc := 0, seedNonempty := false
      pend := none, done := true, err := false, errCode := 0 }

/-- R128: SEED_ABSORB b. -/
def Obligations.SeedAbsorbRule : Prop :=
  (∀ b : Byte, encode (.seedAbsorb b) = 0x03000000 ||| b.setWidth 32) ∧
  (∀ rsv imm : Nat, rsv < 65536 → imm < 256 → decode (wordOf 3 rsv imm) =
    if rsv = 0 then .valid (.seedAbsorb (BitVec.ofNat 8 imm)) else .error .reservedBits) ∧
  ∀ (s : State) (b : Byte),
    (s.modValid = false → exec (.seedAbsorb b) s =
      .next { s with pend := none, done := true, err := true, errCode := 5 }) ∧
    (s.modValid = true → exec (.seedAbsorb b) s =
      .next { s with
        seedAcc := (s.seedAcc * 256 + b.toNat) % s.modulus, seedNonempty := true
        pend := none, done := true, err := false, errCode := 0 })

/-- R131: SEED_COMMIT. -/
def Obligations.SeedCommitRule : Prop :=
  encode .seedCommit = 0x04000000 ∧
  (∀ rsv imm : Nat, rsv < 65536 → imm < 256 → decode (wordOf 4 rsv imm) =
    if rsv = 0 ∧ imm = 0 then .valid .seedCommit else .error .reservedBits) ∧
  ∀ s : State,
    (s.modValid = false → exec .seedCommit s =
      .next { s with pend := none, done := true, err := true, errCode := 5 }) ∧
    (s.modValid = true → s.seedNonempty = false → exec .seedCommit s =
      .next { s with pend := none, done := true, err := true, errCode := 7 }) ∧
    (s.modValid = true → s.seedNonempty = true → exec .seedCommit s =
      .next { s with
        genState := s.seedAcc, seeded := true, seedAcc := 0, seedNonempty := false
        pend := none, done := true, err := false, errCode := 0 })

/-- R136 and R137: NEXT_BITS count, its error codes, the state it leaves and every bit of BITS. -/
def Obligations.NextBitsRule : Prop :=
  (∀ c : Byte, encode (.nextBits c) = 0x05000000 ||| c.setWidth 32) ∧
  (∀ rsv imm : Nat, rsv < 65536 → imm < 256 → decode (wordOf 5 rsv imm) =
    if rsv ≠ 0 then .error .reservedBits
    else if 32 < imm then .error .badArg else .valid (.nextBits (BitVec.ofNat 8 imm))) ∧
  ∀ (s : State) (c : Byte), c.toNat ≤ 32 →
    (s.modValid = false → exec (.nextBits c) s =
      .next { s with pend := none, done := true, err := true, errCode := 5 }) ∧
    (s.modValid = true → s.seeded = false → exec (.nextBits c) s =
      .next { s with pend := none, done := true, err := true, errCode := 6 }) ∧
    (s.modValid = true → s.seeded = true → ∃ b : Word,
      exec (.nextBits c) s = .next { s with
        genState := squared s.modulus c.toNat s.genState, bits := b
        pend := none, done := true, err := false, errCode := 0 } ∧
      (∀ k < c.toNat, b.getLsbD (c.toNat - 1 - k) =
        decide (squared s.modulus (k + 1) s.genState % 2 = 1)) ∧
      ∀ j, c.toNat ≤ j → b.getLsbD j = false)

/-- R168: RANK d, where rows 0 .. d-1 have been written. The passes are those of R163 and R164, which
have statements of their own. -/
def Obligations.RankRule : Prop :=
  (∀ d : Byte, encode (.rank d) = 0x06000000 ||| d.setWidth 32) ∧
  (∀ rsv imm : Nat, rsv < 65536 → imm < 256 → decode (wordOf 6 rsv imm) =
    if rsv ≠ 0 then .error .reservedBits
    else if imm = 0 ∨ 32 < imm then .error .badArg else .valid (.rank (BitVec.ofNat 8 imm))) ∧
  ∀ (s : State) (d : Byte), 1 ≤ d.toNat → d.toNat ≤ 32 → RowsWritten s d.toNat →
    ∃ (A B : List Word) (m : Buffer),
      A.length = d.toNat ∧
      (∀ r < d.toNat, ∀ c < 32, Gf2.entry A r c = (decide (c < d.toNat) && matrixEntry s r c)) ∧
      B = Gf2.backwardPass d.toNat (Gf2.forwardPass d.toNat A) ∧
      exec (.rank d) s = .next { s with
        matrix := m
        rankResult := BitVec.ofNat 32
          ((Finset.range d.toNat).filter fun r => B.getD r 0 ≠ 0).card
        pend := none, done := true, err := false, errCode := 0 } ∧
      m.length = s.matrix.length ∧
      ∀ r, (m.word r).written = (s.matrix.word r).written ∧
        ∀ b < 32, (m.word r).val.getLsbD b =
          if r < d.toNat ∧ 32 - d.toNat ≤ b then Gf2.entry B r (31 - b)
          else (s.matrix.word r).val.getLsbD b

/-- RANK d where some row below d is unwritten: it completes, and does what it does on the matrix `m` that
has a free value in each such row, with the model fault of R110 recorded. That the machine goes on with free values, and how they are counted, is
the model's choice (log 4, log 7). -/
def Obligations.RankRunsOnUnwrittenRows : Prop :=
  ∀ (s : State) (d : Byte) (m : Buffer), 1 ≤ d.toNat → d.toNat ≤ 32 → s.matrix.length = 32 →
    (∃ r < d.toNat, (s.matrix.word r).written = false) → m.length = 32 →
    (∀ r, m.word r =
      if r < d.toNat ∧ (s.matrix.word r).written = false then
        { val := Config.freeValue (s.draws + r), written := true }
      else s.matrix.word r) →
    (∃ t, exec (.rank d) s = .next t) ∧
    exec (.rank d) s = exec (.rank d) { s with
      matrix := m, draws := s.draws + d.toNat
      modelFault := s.modelFault.or (some .unwrittenMatrix) }

/-! ### The BBS unit -/

/-- A whole seeding sequence leaves the seed's value modulo N as the state, and changes nothing else but
the completion fields (the spec's own inference, R133). -/
def Obligations.SeedSequenceSetsState : Prop :=
  ∀ (s : State) (bytes : List Byte), s.modValid = true → bytes ≠ [] →
    ExecAll (.seedClear :: bytes.map Instr.seedAbsorb ++ [.seedCommit]) s
      { s with
        genState := seedSum bytes % s.modulus, seeded := true
        seedAcc := 0, seedNonempty := false
        pend := none, done := true, err := false, errCode := 0 }

/-- Absorbing bytes one at a time from an empty accumulator leaves the seed's value modulo N (the spec's
own inference, R129). -/
def Obligations.AbsorbedBytesAreTheSeedValue : Prop :=
  ∀ (s : State) (bytes : List Byte), s.modValid = true → s.seedAcc = 0 →
    ∃ u, ExecAll (bytes.map Instr.seedAbsorb) s u ∧ u.modulus = s.modulus ∧
      u.seedAcc = seedSum bytes % s.modulus

/-- Two NEXT_BITS commands leave what one of the summed count leaves, and its bits are the concatenation
of theirs (the spec's own inference, R139). -/
def Obligations.NextBitsSplits : Prop :=
  ∀ (s t u : State) (a b : Nat), a + b ≤ 32 → s.modValid = true → s.seeded = true →
    exec (.nextBits (BitVec.ofNat 8 a)) s = .next t →
    exec (.nextBits (BitVec.ofNat 8 b)) t = .next u →
    ∃ v, exec (.nextBits (BitVec.ofNat 8 (a + b))) s = .next v ∧
      v.genState = u.genState ∧ v.bits = (t.bits <<< b) ||| u.bits

/-- A committed state of 0 emits only zeros and stays 0; a state of 1 emits only ones and stays 1 (the
spec's own inference, R132). -/
def Obligations.StatesZeroAndOneAreFixed : Prop :=
  ∀ (s : State) (c : Byte), c.toNat ≤ 32 → s.modValid = true → s.seeded = true →
    2 ≤ s.modulus →
    (s.genState = 0 → ∃ t, exec (.nextBits c) s = .next t ∧ t.genState = 0 ∧ t.bits = 0) ∧
    (s.genState = 1 → ∃ t, exec (.nextBits c) s = .next t ∧ t.genState = 1 ∧
      t.bits.toNat = 2 ^ c.toNat - 1)

/-- The seed commands neither read nor write STATE and SEEDED, and NEXT_BITS neither reads nor writes
SEED_ACC and SEED_NONEMPTY (the spec's own inference, R143). -/
def Obligations.SeedAndStateAreIndependent : Prop :=
  (∀ (s t : State) (g : Nat) (f : Bool), exec .seedClear s = .next t →
    exec .seedClear { s with genState := g, seeded := f } =
      .next { t with genState := g, seeded := f }) ∧
  (∀ (s t : State) (b : Byte) (g : Nat) (f : Bool), exec (.seedAbsorb b) s = .next t →
    exec (.seedAbsorb b) { s with genState := g, seeded := f } =
      .next { t with genState := g, seeded := f }) ∧
  ∀ (s t : State) (c : Byte) (a : Nat) (f : Bool), exec (.nextBits c) s = .next t →
    exec (.nextBits c) { s with seedAcc := a, seedNonempty := f } =
      .next { t with seedAcc := a, seedNonempty := f }

/-- The BBS unit's state and bits after any commands depend only on its own state and OPBUF before
them: not on MATRIX, CTRL, STATUS, the schedule or a draw (the spec's own inference, R138). A
LOAD_MODULUS among the commands finds every OPBUF word written, as R213 asks. -/
def Obligations.GeneratorIsDeterministic : Prop :=
  ∀ (is : List Instr) (s s' t t' : State),
    s.params = s'.params → s.opbuf = s'.opbuf → s.modulus = s'.modulus →
    s.genState = s'.genState → s.seedAcc = s'.seedAcc → s.modValid = s'.modValid →
    s.seeded = s'.seeded → s.seedNonempty = s'.seedNonempty → s.bits = s'.bits →
    (.loadModulus ∈ is → ∀ j < s.params.nw, (s.opbuf.word j).written = true) →
    ExecAll is s t → ExecAll is s' t' →
    t.modulus = t'.modulus ∧ t.genState = t'.genState ∧ t.seedAcc = t'.seedAcc ∧
    t.modValid = t'.modValid ∧ t.seeded = t'.seeded ∧ t.seedNonempty = t'.seedNonempty ∧
    t.bits = t'.bits

/-! ### The rank unit -/

/-- R163: one step of the forward pass on a d-row matrix. `p` is the row that becomes the pivot row:
row i itself if its pivot entry is 1, else the least candidate below it. -/
def Obligations.ForwardPassRule : Prop :=
  ∀ (d i : Nat) (A : List Word), A.length = d → d ≤ 32 → i < d →
    (∀ p, i ≤ p → p < d → Gf2.entry A p i = true →
      (∀ q, i ≤ q → q < p → Gf2.entry A q i = false) →
      (Gf2.forwardStep d A i).length = d ∧
      (Gf2.forwardStep d A i).getD i 0 = A.getD p 0 ∧
      (∀ k < i, (Gf2.forwardStep d A i).getD k 0 = A.getD k 0) ∧
      ∀ k, i < k → k < d → ∀ row : Word, row = A.getD (if k = p then i else k) 0 →
        (Gf2.forwardStep d A i).getD k 0 =
          if row.getLsbD (31 - i) then row ^^^ A.getD p 0 else row) ∧
    ((∀ q, i ≤ q → q < d → Gf2.entry A q i = false) → Gf2.forwardStep d A i = A) ∧
    Gf2.forwardPass d A = (List.range (d - 1)).foldl (Gf2.forwardStep d) A

/-- R164: one step of the backward pass. `p` is the row that becomes the pivot row: row i itself if
its pivot entry is 1, else the greatest candidate above it. -/
def Obligations.BackwardPassRule : Prop :=
  ∀ (d i : Nat) (A : List Word), A.length = d → d ≤ 32 → i < d →
    (∀ p, p ≤ i → Gf2.entry A p i = true →
      (∀ q, p < q → q ≤ i → Gf2.entry A q i = false) →
      (Gf2.backwardStep A i).length = d ∧
      (Gf2.backwardStep A i).getD i 0 = A.getD p 0 ∧
      (∀ k, i < k → k < d → (Gf2.backwardStep A i).getD k 0 = A.getD k 0) ∧
      ∀ k < i, ∀ row : Word, row = A.getD (if k = p then i else k) 0 →
        (Gf2.backwardStep A i).getD k 0 =
          if row.getLsbD (31 - i) then row ^^^ A.getD p 0 else row) ∧
    ((∀ q ≤ i, Gf2.entry A q i = false) → Gf2.backwardStep A i = A) ∧
    Gf2.backwardPass d A =
      (List.range (d - 1)).foldr (fun j B => Gf2.backwardStep B (j + 1)) A

/-- After RANK d, RANK_RESULT is the number of rows of the matrix left in MATRIX that are not
entirely zero, and it is at most d. That this holds of unwritten rows too, on which RANK runs with free
values, is the model's choice (log 7). -/
def Obligations.RankResultCountsNonzeroRows : Prop :=
  ∀ (s : State) (d : Byte), 1 ≤ d.toNat → d.toNat ≤ 32 → s.matrix.length = 32 →
    ∃ t, exec (.rank d) s = .next t ∧ t.rankResult.toNat ≤ d.toNat ∧
      t.rankResult.toNat =
        ((Finset.range d.toNat).filter fun r =>
          (t.matrix.word r).val.toNat / 2 ^ (32 - d.toNat) ≠ 0).card

/-- After RANK d every row r < d is zero or has its last 1 in column r. That this holds of unwritten rows
too, on which RANK runs with free values, is the model's choice (log 7). -/
def Obligations.RankLeavesLastOnesOnDiagonal : Prop :=
  ∀ (s : State) (d : Byte), 1 ≤ d.toNat → d.toNat ≤ 32 → s.matrix.length = 32 →
    ∃ t, exec (.rank d) s = .next t ∧
      ∀ r < d.toNat,
        (∀ c, r < c → c < d.toNat → matrixEntry t r c = false) ∧
        (matrixEntry t r r = false → ∀ c < d.toNat, matrixEntry t r c = false)

/-- The count RANK gives is the rank of the matrix over GF(2). R169 gives this with evidence and says that
it is no proof. -/
def Obligations.RankIsTheGf2Rank : Prop :=
  ∀ (s : State) (d : Byte), 1 ≤ d.toNat → d.toNat ≤ 32 → RowsWritten s d.toNat →
    ∃ t, exec (.rank d) s = .next t ∧ t.rankResult.toNat = (gf2Matrix s d.toNat).rank

/-- RANK of the identity is its side and of the zero matrix 0, and neither matrix changes. -/
def Obligations.RankOfIdentityAndZero : Prop :=
  ∀ (s : State) (d : Byte), 1 ≤ d.toNat → d.toNat ≤ 32 → RowsWritten s d.toNat →
    ((∀ r < d.toNat, ∀ c < d.toNat, matrixEntry s r c = decide (r = c)) →
      ∃ t, exec (.rank d) s = .next t ∧ t.rankResult.toNat = d.toNat ∧ t.matrix = s.matrix) ∧
    ((∀ r < d.toNat, ∀ c < d.toNat, matrixEntry s r c = false) →
      ∃ t, exec (.rank d) s = .next t ∧ t.rankResult.toNat = 0 ∧ t.matrix = s.matrix)

/-- Permuting the rows before RANK does not change RANK_RESULT. -/
def Obligations.RankIgnoresRowOrder : Prop :=
  ∀ (s s' : State) (d : Byte) (σ : Equiv.Perm (Fin d.toNat)),
    1 ≤ d.toNat → d.toNat ≤ 32 → RowsWritten s d.toNat → RowsWritten s' d.toNat →
    (∀ r : Fin d.toNat, ∀ c < d.toNat, matrixEntry s' r c = matrixEntry s (σ r) c) →
    ∃ t t', exec (.rank d) s = .next t ∧ exec (.rank d) s' = .next t' ∧
      t.rankResult = t'.rankResult

/-! ### The host port -/

/-- Every access but an aligned 32-bit one inside the window gets a bus error and changes no state of the
block (R62). For an address outside the window this is the model's reading (log 8). -/
def Obligations.UnsupportedAccessesAreRefused : Prop :=
  ∀ (s : State) (width addr : Nat) (v : Word) (rest : List Event),
    (width ≠ 32 ∨ addr < s.params.base ∨ s.params.base + 0x2000 ≤ addr ∨
      (addr - s.params.base) % 4 ≠ 0) →
    (s.events = .busRead width addr :: rest ∨ s.events = .busWrite width addr v :: rest) →
    step s = .next { s with events := rest, resp := some .busError }

/-- A read changes nothing in the block (R65): only the model's own schedule (log 2), draw count (log 4)
and response (log 12). -/
def Obligations.ReadsHaveNoSideEffect : Prop :=
  ∀ (s : State) (width addr : Nat) (rest : List Event), s.events = .busRead width addr :: rest →
    ∃ (r : Response) (n : Nat), step s = .next { s with events := rest, resp := some r, draws := n }

/-- The constant registers: ID reads 0x42425301, PARAM reads MAT_N and NW in their fields, and a write
to either changes nothing and is no error. -/
def Obligations.IdAndParamAreConstant : Prop :=
  ∀ (s : State) (v : Word) (rest : List Event), s.params.Legal →
    (s.events = .busRead 32 s.params.base :: rest →
      step s = .next { s with events := rest, resp := some (.data 0x42425301) }) ∧
    (s.events = .busRead 32 (s.params.base + 0x0004) :: rest → ∃ w : Word,
      step s = .next { s with events := rest, resp := some (.data w) } ∧
      w.extractLsb' 0 16 = BitVec.ofNat 16 (s.params.W / 32) ∧ w.extractLsb' 16 8 = 32#8 ∧
      w.extractLsb' 24 8 = 0#8) ∧
    ((s.events = .busWrite 32 s.params.base v :: rest ∨
        s.events = .busWrite 32 (s.params.base + 0x0004) v :: rest) →
      step s = .next { s with events := rest, resp := some .ok })

/-- R26: a CTRL write with bit 1 clear sets IRQ_EN from bit 0, busy or not; a CTRL read gives
IRQ_EN. -/
def Obligations.CtrlRule : Prop :=
  ∀ (s : State) (v : Word) (rest : List Event),
    (s.events = .busWrite 32 (s.params.base + 0x0008) v :: rest → v.getLsbD 1 = false →
      step s = .next { s with events := rest, irqEn := v.getLsbD 0, resp := some .ok }) ∧
    (s.events = .busRead 32 (s.params.base + 0x0008) :: rest →
      step s = .next { s with
        events := rest, resp := some (.data (if s.irqEn then 1 else 0)) })

/-- A CTRL write with bit 1 set resets the block, whatever bit 0 is and whatever is pending (R27). What
it leaves of the model's own fields is the model's choice (log 13). -/
def Obligations.SoftResetRule : Prop :=
  ∀ (s : State) (v : Word) (rest : List Event),
    s.events = .busWrite 32 (s.params.base + 0x0008) v :: rest → v.getLsbD 1 = true →
    step s = .next { State.resetOf s.params with
      events := rest, resp := some .ok, draws := s.draws, modelFault := s.modelFault }

/-- R33 and R34: what a read of STATUS gives, bit by bit, and what a write of it clears. -/
def Obligations.StatusRule : Prop :=
  ∀ (s : State) (v : Word) (rest : List Event),
    (s.events = .busRead 32 (s.params.base + 0x000C) :: rest → ∃ w : Word,
      step s = .next { s with events := rest, resp := some (.data w) } ∧
      w.getLsbD 0 = s.pend.isSome ∧ w.getLsbD 1 = s.done ∧ w.getLsbD 2 = s.err ∧
      w.getLsbD 3 = s.overrun ∧ w.getLsbD 4 = s.modValid ∧ w.getLsbD 5 = s.seeded ∧
      w.getLsbD 6 = s.seedNonempty ∧ w.getLsbD 7 = false ∧
      (∀ b < 4, w.getLsbD (8 + b) = s.errCode.getLsbD b) ∧ ∀ b, 12 ≤ b → w.getLsbD b = false) ∧
    (s.events = .busWrite 32 (s.params.base + 0x000C) v :: rest →
      step s = .next { s with
        events := rest
        done := if v.getLsbD 1 then false else s.done
        overrun := if v.getLsbD 3 then false else s.overrun
        resp := some .ok })

/-- A reserved offset reads 0, and a write there changes nothing (R52). -/
def Obligations.ReservedOffsetsReadZero : Prop :=
  ∀ (s : State) (off : Nat) (v : Word) (rest : List Event),
    off % 4 = 0 →
    ((0x001C ≤ off ∧ off < 0x0100) ∨ (0x0180 ≤ off ∧ off < 0x1000) ∨
      (0x1000 + 4 * s.params.nw ≤ off ∧ off < 0x2000)) →
    (s.events = .busRead 32 (s.params.base + off) :: rest →
      step s = .next { s with events := rest, resp := some (.data 0) }) ∧
    (s.events = .busWrite 32 (s.params.base + off) v :: rest →
      step s = .next { s with events := rest, resp := some .ok })

/-- Writes to the read-only result registers are ignored, and CMD reads 0. -/
def Obligations.ResultRegistersIgnoreWrites : Prop :=
  ∀ (s : State) (v : Word) (rest : List Event),
    ((s.events = .busWrite 32 (s.params.base + 0x0014) v :: rest ∨
        s.events = .busWrite 32 (s.params.base + 0x0018) v :: rest) →
      step s = .next { s with events := rest, resp := some .ok }) ∧
    (s.events = .busRead 32 (s.params.base + 0x0010) :: rest →
      step s = .next { s with events := rest, resp := some (.data 0) })

/-- BITS while a NEXT_BITS word is pending, RANK_RESULT and MATRIX while a RANK word is
pending, and an unwritten buffer word read as a fresh draw; every other read of them gives the
current value (R50, R221). That a word belongs to a command by its OP field alone is the model's reading
(log 9). -/
def Obligations.ReadsOfResultsAndBuffers : Prop :=
  ∀ (s draw : State) (rest : List Event) (off : Nat), s.params.Legal →
    s.events = .busRead 32 (s.params.base + off) :: rest →
    draw = { s with
      events := rest, resp := some (.data (Config.freeValue s.draws)), draws := s.draws + 1 } →
    (off = 0x0014 →
      (∀ w, s.pend = some w → w.extractLsb' 24 8 = 5#8 → step s = .next draw) ∧
      ((∀ w, s.pend = some w → w.extractLsb' 24 8 ≠ 5#8) →
        step s = .next { s with events := rest, resp := some (.data s.bits) })) ∧
    (off = 0x0018 →
      (∀ w, s.pend = some w → w.extractLsb' 24 8 = 6#8 → step s = .next draw) ∧
      ((∀ w, s.pend = some w → w.extractLsb' 24 8 ≠ 6#8) →
        step s = .next { s with events := rest, resp := some (.data s.rankResult) })) ∧
    (∀ r < 32, off = 0x0100 + 4 * r →
      (∀ w, s.pend = some w → w.extractLsb' 24 8 = 6#8 → step s = .next draw) ∧
      ((s.matrix.word r).written = false → step s = .next draw) ∧
      ((∀ w, s.pend = some w → w.extractLsb' 24 8 ≠ 6#8) → (s.matrix.word r).written = true →
        step s = .next { s with events := rest, resp := some (.data (s.matrix.word r).val) })) ∧
    ∀ j < s.params.nw, off = 0x1000 + 4 * j →
      ((s.opbuf.word j).written = false → step s = .next draw) ∧
      ((s.opbuf.word j).written = true →
        step s = .next { s with events := rest, resp := some (.data (s.opbuf.word j).val) })

/-- A write to a buffer word while idle is what a later read of that word finds; every other word is
as it was, and so is the rest of the block. -/
def Obligations.IdleBufferWritesStore : Prop :=
  ∀ (s : State) (v : Word) (off : Nat) (rest : List Event), s.params.Legal →
    s.opbuf.length = s.params.nw → s.matrix.length = 32 → s.pend = none →
    s.events = .busWrite 32 (s.params.base + off) v :: rest →
    (∀ r < 32, off = 0x0100 + 4 * r → ∃ m : Buffer,
      step s = .next { s with events := rest, matrix := m, resp := some .ok } ∧
      m.length = 32 ∧ m.word r = { val := v, written := true } ∧
      ∀ k, k ≠ r → m.word k = s.matrix.word k) ∧
    ∀ j < s.params.nw, off = 0x1000 + 4 * j → ∃ m : Buffer,
      step s = .next { s with events := rest, opbuf := m, resp := some .ok } ∧
      m.length = s.params.nw ∧ m.word j = { val := v, written := true } ∧
      ∀ k, k ≠ j → m.word k = s.opbuf.word k

/-- No transaction shows N, STATE or SEED_ACC: with other values in them, every read, write and reset
leaves the same block, those three apart, and gets the same response unless the response is a draw. It
is a draw exactly where the model counts one (log 4); then both are draws, whose values are not
compared. -/
def Obligations.HiddenRegistersStayHidden : Prop :=
  ∀ (s : State) (n g a : Nat) (e : Event) (rest : List Event), s.events = e :: rest →
    e ≠ .complete →
    ∃ t u, step s = .next t ∧
      step { s with modulus := n, genState := g, seedAcc := a } = .next u ∧
      (t.draws = s.draws → u.resp = t.resp) ∧ u.draws = t.draws ∧
      u.statusWord = t.statusWord ∧
      { u with
        modulus := t.modulus, genState := t.genState, seedAcc := t.seedAcc
        resp := t.resp } = t

/-! ### Interrupt and reset -/

/-- With IRQ_EN set, every completion and every dropped write raises IRQ; clearing both STATUS bits
lowers it. -/
def Obligations.InterruptFollowsCompletionAndOverrun : Prop :=
  (∀ s t : State, s.irqEn = true → CompletesAny s → step s = .next t → t.irq = true) ∧
  (∀ (s t : State) (v : Word), s.irqEn = true → s.pend ≠ none →
    (HostWrites .cmd v s ∨ (∃ r, HostWrites (.matrix r) v s) ∨ ∃ j, HostWrites (.opbuf j) v s) →
    step s = .next t → t.irq = true) ∧
  ∀ (s t : State) (v : Word), v.getLsbD 1 = true → v.getLsbD 3 = true → HostWrites .status v s →
    step s = .next t → t.irq = false

/-- R190: `IRQ = CTRL.IRQ_EN AND (STATUS.DONE OR STATUS.OVERRUN)`. -/
def Obligations.InterruptLineIsAFunctionOfState : Prop :=
  ∀ s : State, s.irq = true ↔ s.irqEn = true ∧ (s.done = true ∨ s.overrun = true)

/-- R48: what every state holds right after a reset, be it the first state or the one a reset step
leaves. For N, OPBUF and MATRIX the rule gives no value. -/
def Obligations.ResetValues : Prop :=
  ∀ t : State, AfterReset t →
    t.irqEn = false ∧ t.busy = false ∧ t.done = false ∧ t.err = false ∧ t.overrun = false ∧
    t.errCode = 0 ∧ t.modValid = false ∧ t.seeded = false ∧ t.seedNonempty = false ∧
    t.pend = none ∧ t.bits = 0 ∧ t.rankResult = 0 ∧ t.seedAcc = 0 ∧ t.genState = 0 ∧
    (∀ j, (t.opbuf.word j).written = false) ∧ (∀ r, (t.matrix.word r).written = false) ∧
    t.readReg .id = some 0x42425301 ∧
    t.readReg .param = some ((32 <<< 16) ||| BitVec.ofNat 32 (t.params.W / 32))

/-- The reset input and a CTRL write with bit 1 set leave the same block, pending command or not: the
reset state (R210). What they leave of the model's own fields is the model's choice (log 13). -/
def Obligations.BothResetsAreTheSame : Prop :=
  ∀ s : State, Resets s → ∃ t, step s = .next t ∧
    t = { State.resetOf s.params with
      events := (nextEvent s).2, resp := t.resp, draws := s.draws, modelFault := s.modelFault }

/-- Right after any reset the block is idle and masked, IRQ is 0 and no modulus and no seed are there
(R211). While MOD_VALID = 0, NEXT_BITS fails with NO_MODULUS and changes nothing but the completion
fields (R136), and only a completion of LOAD_MODULUS ends that (R49). -/
def Obligations.NextBitsAfterResetFails : Prop :=
  (∀ t : State, AfterReset t →
    t.pend = none ∧ t.irqEn = false ∧ t.irq = false ∧ t.modValid = false ∧ t.seeded = false) ∧
  (∀ (s : State) (c : Byte), c.toNat ≤ 32 → s.modValid = false →
    exec (.nextBits c) s =
      .next { s with pend := none, done := true, err := true, errCode := 5 }) ∧
  ∀ s t : State, s.modValid = false → step s = .next t → t.modValid = true →
    Completes .loadModulus s

/-! ### Invariants and whole-machine rules -/

/-- Every step keeps the five invariants of R45 (the spec's own inference there). -/
def Obligations.EveryStepKeepsTheRuleInvariants : Prop :=
  ∀ s t : State, s.RuleInv → step s = .next t → t.RuleInv

/-- Every step keeps the shape of the state, the W-bit widths of the hidden registers and the ranges
of the results, and the parameters never change. -/
def Obligations.EveryStepKeepsShapeAndWidths : Prop :=
  ∀ s t : State, s.RuleInv → s.Shape → s.Widths → s.Results → step s = .next t →
    t.Shape ∧ t.Widths ∧ t.Results ∧ t.params = s.params

/-- Reset establishes the invariants under every legal choice of the parameters, and `State.reset` is
such a reset. -/
def Obligations.ResetEstablishesTheInvariants : Prop :=
  (∀ p : Params, p.Legal →
    (State.resetOf p).RuleInv ∧ (State.resetOf p).Shape ∧ (State.resetOf p).Widths ∧
      (State.resetOf p).Results) ∧
  ∃ p : Params, p.Legal ∧ State.reset = State.resetOf p

/-- A piece of state changes only in a step of one of its writers (the spec's own inference, R49). A
reset, which makes the buffers unspecified (R48), is named for them too. -/
def Obligations.OnlyTheNamedWritersWrite : Prop :=
  ∀ s t : State, step s = .next t →
    (t.irqEn ≠ s.irqEn → (∃ v, HostWrites .ctrl v s) ∨ Resets s) ∧
    (t.done ≠ s.done ∨ t.err ≠ s.err ∨ t.errCode ≠ s.errCode →
      (∃ v, HostWrites .cmd v s ∧ s.pend = none) ∨ CompletesAny s ∨
        (∃ v, HostWrites .status v s) ∨ Resets s) ∧
    (t.overrun ≠ s.overrun →
      (s.pend ≠ none ∧ ∃ v, HostWrites .cmd v s ∨ (∃ r, HostWrites (.matrix r) v s) ∨
        ∃ j, HostWrites (.opbuf j) v s) ∨ (∃ v, HostWrites .status v s) ∨ Resets s) ∧
    (t.modulus ≠ s.modulus ∨ t.modValid ≠ s.modValid → Completes .loadModulus s ∨ Resets s) ∧
    (t.genState ≠ s.genState ∨ t.seeded ≠ s.seeded →
      Completes .loadModulus s ∨ Completes .seedCommit s ∨ (∃ c, Completes (.nextBits c) s) ∨
        Resets s) ∧
    (t.seedAcc ≠ s.seedAcc ∨ t.seedNonempty ≠ s.seedNonempty →
      Completes .loadModulus s ∨ Completes .seedClear s ∨ (∃ b, Completes (.seedAbsorb b) s) ∨
        Completes .seedCommit s ∨ Resets s) ∧
    (t.bits ≠ s.bits → (∃ c, Completes (.nextBits c) s) ∨ Resets s) ∧
    (t.rankResult ≠ s.rankResult → (∃ d, Completes (.rank d) s) ∨ Resets s) ∧
    (t.matrix ≠ s.matrix →
      (s.pend = none ∧ ∃ r v, HostWrites (.matrix r) v s) ∨ (∃ d, Completes (.rank d) s) ∨
        Resets s) ∧
    (t.opbuf ≠ s.opbuf → (s.pend = none ∧ ∃ j v, HostWrites (.opbuf j) v s) ∨ Resets s) ∧
    (t.pend ≠ s.pend →
      (∃ v, HostWrites .cmd v s ∧ s.pend = none) ∨ CompletesAny s ∨ Resets s)

/-- Every step goes on, and so no run stops: no error wedges the block (R183), and a command that consumes
an unwritten word runs on free values, which is the model's choice (log 7). -/
def Obligations.EveryStepGoesOn : Prop := ∀ s : State, Goes s ∧ SafeRun s

/-- A step that consumes an unwritten OPBUF word or MATRIX row is a fault of the model (R50, R110), and
nothing else is: the run records its first one, and a completion after which none is recorded drew no
free value. That the machine runs on after a model fault, and records it, is the model's choice (log 7). -/
def Obligations.ModelFaultsAreUnwrittenOperands : Prop :=
  ∀ s t : State, step s = .next t →
    (Completes .loadModulus s → (∃ j < s.params.nw, (s.opbuf.word j).written = false) →
      t.modelFault = s.modelFault.or (some .unwrittenOpbuf)) ∧
    (∀ d, Completes (.rank d) s → (∃ r < d.toNat, (s.matrix.word r).written = false) →
      t.modelFault = s.modelFault.or (some .unwrittenMatrix)) ∧
    (¬ (Completes .loadModulus s ∧ ∃ j < s.params.nw, (s.opbuf.word j).written = false) →
      ¬ (∃ d, Completes (.rank d) s ∧ ∃ r < d.toNat, (s.matrix.word r).written = false) →
      t.modelFault = s.modelFault) ∧
    (CompletesAny s → t.modelFault = none → t.draws = s.draws)

/-- Once every OPBUF word and MATRIX row has been written and no reset is scheduled, they stay written for
the whole run, so that no step of it is a model fault and no completion draws a free value. -/
def Obligations.WrittenBuffersStayWritten : Prop :=
  ∀ s : State, (∀ j < s.params.nw, (s.opbuf.word j).written = true) → RowsWritten s 32 →
    (∀ e ∈ s.events, e ≠ .resetInput ∧ ∀ (addr : Nat) (v : Word),
      e = .busWrite 32 addr v → v.getLsbD 1 = true → selectReg s.params 32 addr ≠ some .ctrl) →
    ∀ t, Reaches s t →
      (∀ j < t.params.nw, (t.opbuf.word j).written = true) ∧ RowsWritten t 32 ∧
      ∀ u, step t = .next u → u.modelFault = t.modelFault ∧ (CompletesAny t → u.draws = t.draws)

/-- A rank-test matrix loaded from a bit buffer by R214 has, as its entry (r, c), buffer bit
1024k + 32r + c. Past the end of the buffer both read 0, which is the model's choice (log 24). -/
def Obligations.BitBufferRowsHoldTheBufferBits : Prop :=
  ∀ (B : List Byte) (k r c : Nat), r < 32 → c < 32 →
    (bufferRow B k r).getLsbD (31 - c) = bufferBit B (1024 * k + 32 * r + c)
end

