-- ==== Sys2Proof/Laws/Bbs.lean ====
section
/-! SUPPORT. The loop of NEXT_BITS (R136): the state it leaves, and that a longer loop is two shorter
ones. -/

namespace Sys2Proof.Machine

/-- The state after k iterations does not depend on the output word. -/
theorem emit_fst (n k x : Nat) (out : Word) : (emit n k x out).1 = (square n)^[k] x := by
  induction k generalizing x out with
  | zero => rfl
  | succ k ih => rw [emit, ih, Function.iterate_succ_apply]

theorem emit_add (n j k x : Nat) (out : Word) :
    emit n (j + k) x out = emit n k (emit n j x out).1 (emit n j x out).2 := by
  induction j generalizing x out with
  | zero => rw [Nat.zero_add]; rfl
  | succ j ih => rw [Nat.succ_add, emit, ih, emit]

theorem square_lt {n : Nat} (h : 0 < n) (x : Nat) : square n x < n := Nat.mod_lt _ h

/-- The loop keeps the state below N (R141). -/
theorem emit_fst_lt {n x : Nat} (k : Nat) (out : Word) (h : x < n) : (emit n k x out).1 < n := by
  rw [emit_fst]
  cases k with
  | zero => exact h
  | succ k => rw [Function.iterate_succ_apply']; exact square_lt (Nat.zero_lt_of_lt h) _

end Sys2Proof.Machine
end

