-- ==== Sys2Proof/Laws/Ops.lean ====
section
/-! SUPPORT. Everything a buffer operation can do, and that each keeps the one form a buffer has; the
value of OPBUF. -/

namespace Sys2Proof.Machine

@[simp] theorem Buffer.length_store (b : Buffer) (j : Nat) (v : Word) :
    (b.store j v).length = b.length := by simp [Buffer.store]

/-- A read of the word just written gives what was written. -/
theorem Buffer.word_store_same {b : Buffer} {j : Nat} (v : Word) (h : j < b.length) :
    (b.store j v).word j = { val := v, written := true } := by
  simp [Buffer.store, Buffer.word, h]

/-- A write leaves every other word alone. -/
theorem Buffer.word_store_other (b : Buffer) {j k : Nat} (v : Word) (h : k ≠ j) :
    (b.store j v).word k = b.word k := by
  simp [Buffer.store, Buffer.word, List.getElem?_set_ne h.symm]

@[simp] theorem Buffer.length_fresh (n : Nat) : (Buffer.fresh n).length = n := by
  simp [Buffer.fresh]

@[simp] theorem Buffer.word_fresh (n j : Nat) : (Buffer.fresh n).word j = BufWord.unwritten := by
  by_cases h : j < n <;> simp [Buffer.fresh, Buffer.word, h]

theorem Buffer.fresh_wf (n : Nat) : (Buffer.fresh n).wf n := by
  refine ⟨Buffer.length_fresh n, fun w hw _ => ?_⟩
  rw [List.eq_of_mem_replicate hw]
  rfl

/-- A write keeps the form. -/
theorem Buffer.store_wf {b : Buffer} {n : Nat} (j : Nat) (v : Word) (h : b.wf n) :
    (b.store j v).wf n := by
  refine ⟨by simpa using h.1, fun w hw hu => ?_⟩
  rcases List.mem_or_eq_of_mem_set hw with h' | rfl
  · exact h.2 w h' hu
  · cases hu

theorem Buffer.allWritten_iff {b : Buffer} {n : Nat} :
    b.allWritten n = true ↔ ∀ j < n, (b.word j).written = true := by
  simp [Buffer.allWritten]

theorem Buffer.not_allWritten {b : Buffer} {n j : Nat} (hj : j < n)
    (h : (b.word j).written = false) : b.allWritten n = false := by
  rw [Bool.eq_false_iff]
  intro hall
  rw [Buffer.allWritten_iff.1 hall j hj] at h
  cases h

/-- A written word is consumed as it is. -/
theorem Buffer.value_written {b : Buffer} {j : Nat} (k : Nat) (h : (b.word j).written = true) :
    b.value k j = (b.word j).val := by simp [Buffer.value, h]

/-- An unwritten word is consumed as a free value (R50). -/
theorem Buffer.value_unwritten {b : Buffer} {j : Nat} (k : Nat) (h : (b.word j).written = false) :
    b.value k j = Config.freeValue (k + j) := by simp [Buffer.value, h]

/-- A written word is one the buffer has. -/
theorem Buffer.lt_length_of_written {b : Buffer} {j : Nat} (h : (b.word j).written = true) :
    j < b.length := by
  by_contra hj
  simp [Buffer.word, List.getElem?_eq_none (Nat.le_of_not_lt hj), BufWord.unwritten] at h

/-- The integer of `k` words is below 2^(32k) (R12). -/
theorem wordsValue_lt (ws : List Word) : wordsValue ws < 2 ^ (32 * ws.length) := by
  induction ws with
  | nil => simp [wordsValue]
  | cons w ws ih =>
    have hw := w.isLt
    have h2 : 2 ^ (32 * (w :: ws).length) = 2 ^ 32 * 2 ^ (32 * ws.length) := by
      rw [List.length_cons, Nat.mul_succ, Nat.add_comm, Nat.pow_add]
    rw [h2]
    simp only [wordsValue]
    have h3 : 2 ^ 32 * wordsValue ws + 2 ^ 32 ≤ 2 ^ 32 * 2 ^ (32 * ws.length) := by
      rw [← Nat.mul_succ]
      exact Nat.mul_le_mul_left _ ih
    omega

/-- The recursion of `wordsValue` is the sum of R12. -/
theorem wordsValue_map_range (n : Nat) (f : Nat → Word) :
    wordsValue ((List.range n).map f) = ∑ j ∈ Finset.range n, (f j).toNat * 2 ^ (32 * j) := by
  induction n generalizing f with
  | zero => rfl
  | succ n ih =>
    have hs : ∀ j, (f (j + 1)).toNat * 2 ^ (32 * (j + 1)) =
        2 ^ 32 * ((f (j + 1)).toNat * 2 ^ (32 * j)) := fun j => by
      rw [show 32 * (j + 1) = 32 + 32 * j by omega, Nat.pow_add, Nat.mul_left_comm]
    have h0 : (f 0).toNat * 2 ^ (32 * 0) = (f 0).toNat := by simp
    rw [List.range_succ_eq_map, List.map_cons, List.map_map, Finset.sum_range_succ',
      Finset.sum_congr rfl fun j _ => hs j, ← Finset.mul_sum, wordsValue,
      ← ih fun j => f (j + 1), h0, Nat.add_comm]
    rfl

/-- OPBUF_VALUE fits W bits (R10, R12). -/
theorem State.opbufValue_lt {s : State} (h : s.params.Legal) : s.opbufValue < 2 ^ s.params.W := by
  have hlen : 32 * s.opbufWords.length = s.params.W := by
    have h0 := h.1
    simp only [State.opbufWords, List.length_map, List.length_range, Params.nw]
    omega
  have := wordsValue_lt s.opbufWords
  rwa [hlen] at this

@[simp] theorem State.length_matrixRows (s : State) (d : Nat) : (s.matrixRows d).length = d := by
  simp [State.matrixRows]

@[simp] theorem length_writeRows (d : Nat) (A : List Word) (k : Nat) (m : Buffer) :
    (writeRows d A k m).length = m.length := by simp [writeRows]

/-- A row the write-back does not reach is as it was (R166). -/
theorem writeRows_word_ge {d r : Nat} (A : List Word) (k : Nat) (m : Buffer) (h : d ≤ r) :
    (writeRows d A k m).word r = m.word r := by
  simp only [writeRows, Buffer.word, List.getD_eq_getElem?_getD, List.getElem?_mapIdx]
  cases m[r]? <;> simp [Nat.not_lt.2 h]

/-- A row the write-back reaches takes the top d bits of `A`, keeps the others as they were consumed, and is
written from then on (R50, R166). -/
theorem writeRows_word_lt {d r : Nat} (A : List Word) (k : Nat) (m : Buffer) (h : r < d)
    (hm : r < m.length) :
    (writeRows d A k m).word r =
      { val := (A.getD r 0 &&& rowMask d) ||| (m.value k r &&& ~~~ rowMask d), written := true } := by
  simp [writeRows, Buffer.word, hm, h]

/-- A written row stays written. -/
theorem writeRows_written {d r : Nat} (A : List Word) (k : Nat) {m : Buffer}
    (h : (m.word r).written = true) : ((writeRows d A k m).word r).written = true := by
  by_cases hd : r < d
  · rw [writeRows_word_lt A k m hd (Buffer.lt_length_of_written h)]
  · rw [writeRows_word_ge A k m (Nat.le_of_not_lt hd), h]

/-- The write-back keeps the form. -/
theorem writeRows_wf {d n : Nat} (A : List Word) (k : Nat) {m : Buffer} (h : m.wf n) :
    (writeRows d A k m).wf n := by
  refine ⟨by simpa using h.1, fun w hmem hu => ?_⟩
  obtain ⟨r, hr, rfl⟩ := List.mem_iff_getElem.1 hmem
  simp only [length_writeRows] at hr
  by_cases hd : r < d
  · simp [writeRows, hd] at hu
  · simp only [writeRows, List.getElem_mapIdx, hd, if_false] at hu ⊢
    exact h.2 _ (List.getElem_mem hr) hu

end Sys2Proof.Machine
end

