-- ==== Sys2Proof/Laws/State.lean ====
section
/-! SUPPORT. One lemma per field per named update of the state, true by `rfl`, so that no proof unfolds
a record update. -/

namespace Sys2Proof.Machine

variable (s : State)

/-! `State.accept` -/

@[simp] theorem State.accept_irqEn (w : Word) : (s.accept w).irqEn = s.irqEn := rfl
@[simp] theorem State.accept_done (w : Word) : (s.accept w).done = false := rfl
@[simp] theorem State.accept_err (w : Word) : (s.accept w).err = false := rfl
@[simp] theorem State.accept_errCode (w : Word) : (s.accept w).errCode = 0 := rfl
@[simp] theorem State.accept_overrun (w : Word) : (s.accept w).overrun = s.overrun := rfl
@[simp] theorem State.accept_bits (w : Word) : (s.accept w).bits = s.bits := rfl
@[simp] theorem State.accept_rankResult (w : Word) : (s.accept w).rankResult = s.rankResult := rfl
@[simp] theorem State.accept_opbuf (w : Word) : (s.accept w).opbuf = s.opbuf := rfl
@[simp] theorem State.accept_matrix (w : Word) : (s.accept w).matrix = s.matrix := rfl
@[simp] theorem State.accept_modulus (w : Word) : (s.accept w).modulus = s.modulus := rfl
@[simp] theorem State.accept_genState (w : Word) : (s.accept w).genState = s.genState := rfl
@[simp] theorem State.accept_seedAcc (w : Word) : (s.accept w).seedAcc = s.seedAcc := rfl
@[simp] theorem State.accept_modValid (w : Word) : (s.accept w).modValid = s.modValid := rfl
@[simp] theorem State.accept_seeded (w : Word) : (s.accept w).seeded = s.seeded := rfl
@[simp] theorem State.accept_seedNonempty (w : Word) :
    (s.accept w).seedNonempty = s.seedNonempty := rfl
@[simp] theorem State.accept_pend (w : Word) : (s.accept w).pend = some w := rfl
@[simp] theorem State.accept_params (w : Word) : (s.accept w).params = s.params := rfl
@[simp] theorem State.accept_events (w : Word) : (s.accept w).events = s.events := rfl
@[simp] theorem State.accept_resp (w : Word) : (s.accept w).resp = s.resp := rfl
@[simp] theorem State.accept_draws (w : Word) : (s.accept w).draws = s.draws := rfl
@[simp] theorem State.accept_modelFault (w : Word) : (s.accept w).modelFault = s.modelFault := rfl

/-! `State.succeed` -/

@[simp] theorem State.succeed_irqEn : s.succeed.irqEn = s.irqEn := rfl
@[simp] theorem State.succeed_done : s.succeed.done = true := rfl
@[simp] theorem State.succeed_err : s.succeed.err = false := rfl
@[simp] theorem State.succeed_errCode : s.succeed.errCode = 0 := rfl
@[simp] theorem State.succeed_overrun : s.succeed.overrun = s.overrun := rfl
@[simp] theorem State.succeed_bits : s.succeed.bits = s.bits := rfl
@[simp] theorem State.succeed_rankResult : s.succeed.rankResult = s.rankResult := rfl
@[simp] theorem State.succeed_opbuf : s.succeed.opbuf = s.opbuf := rfl
@[simp] theorem State.succeed_matrix : s.succeed.matrix = s.matrix := rfl
@[simp] theorem State.succeed_modulus : s.succeed.modulus = s.modulus := rfl
@[simp] theorem State.succeed_genState : s.succeed.genState = s.genState := rfl
@[simp] theorem State.succeed_seedAcc : s.succeed.seedAcc = s.seedAcc := rfl
@[simp] theorem State.succeed_modValid : s.succeed.modValid = s.modValid := rfl
@[simp] theorem State.succeed_seeded : s.succeed.seeded = s.seeded := rfl
@[simp] theorem State.succeed_seedNonempty : s.succeed.seedNonempty = s.seedNonempty := rfl
@[simp] theorem State.succeed_pend : s.succeed.pend = none := rfl
@[simp] theorem State.succeed_params : s.succeed.params = s.params := rfl
@[simp] theorem State.succeed_events : s.succeed.events = s.events := rfl
@[simp] theorem State.succeed_resp : s.succeed.resp = s.resp := rfl
@[simp] theorem State.succeed_draws : s.succeed.draws = s.draws := rfl
@[simp] theorem State.succeed_modelFault : s.succeed.modelFault = s.modelFault := rfl

/-! `State.consume` -/

/-- Consuming written words does nothing. -/
theorem State.consume_written {f : ModelFault} {b : Buffer} {n : Nat} (h : b.allWritten n = true) :
    s.consume f b n = s := by simp [State.consume, h]

/-- Consuming an unwritten word draws, and records its model fault (R110). -/
theorem State.consume_unwritten {f : ModelFault} {b : Buffer} {n : Nat}
    (h : b.allWritten n = false) :
    s.consume f b n =
      { s with draws := s.draws + n, modelFault := s.modelFault.or (some f) } := by
  simp [State.consume, h]

@[simp] theorem State.consume_irqEn (f : ModelFault) (b : Buffer) (n : Nat) :
    (s.consume f b n).irqEn = s.irqEn := rfl
@[simp] theorem State.consume_done (f : ModelFault) (b : Buffer) (n : Nat) :
    (s.consume f b n).done = s.done := rfl
@[simp] theorem State.consume_err (f : ModelFault) (b : Buffer) (n : Nat) :
    (s.consume f b n).err = s.err := rfl
@[simp] theorem State.consume_errCode (f : ModelFault) (b : Buffer) (n : Nat) :
    (s.consume f b n).errCode = s.errCode := rfl
@[simp] theorem State.consume_overrun (f : ModelFault) (b : Buffer) (n : Nat) :
    (s.consume f b n).overrun = s.overrun := rfl
@[simp] theorem State.consume_bits (f : ModelFault) (b : Buffer) (n : Nat) :
    (s.consume f b n).bits = s.bits := rfl
@[simp] theorem State.consume_rankResult (f : ModelFault) (b : Buffer) (n : Nat) :
    (s.consume f b n).rankResult = s.rankResult := rfl
@[simp] theorem State.consume_opbuf (f : ModelFault) (b : Buffer) (n : Nat) :
    (s.consume f b n).opbuf = s.opbuf := rfl
@[simp] theorem State.consume_matrix (f : ModelFault) (b : Buffer) (n : Nat) :
    (s.consume f b n).matrix = s.matrix := rfl
@[simp] theorem State.consume_modulus (f : ModelFault) (b : Buffer) (n : Nat) :
    (s.consume f b n).modulus = s.modulus := rfl
@[simp] theorem State.consume_genState (f : ModelFault) (b : Buffer) (n : Nat) :
    (s.consume f b n).genState = s.genState := rfl
@[simp] theorem State.consume_seedAcc (f : ModelFault) (b : Buffer) (n : Nat) :
    (s.consume f b n).seedAcc = s.seedAcc := rfl
@[simp] theorem State.consume_modValid (f : ModelFault) (b : Buffer) (n : Nat) :
    (s.consume f b n).modValid = s.modValid := rfl
@[simp] theorem State.consume_seeded (f : ModelFault) (b : Buffer) (n : Nat) :
    (s.consume f b n).seeded = s.seeded := rfl
@[simp] theorem State.consume_seedNonempty (f : ModelFault) (b : Buffer) (n : Nat) :
    (s.consume f b n).seedNonempty = s.seedNonempty := rfl
@[simp] theorem State.consume_pend (f : ModelFault) (b : Buffer) (n : Nat) :
    (s.consume f b n).pend = s.pend := rfl
@[simp] theorem State.consume_params (f : ModelFault) (b : Buffer) (n : Nat) :
    (s.consume f b n).params = s.params := rfl
@[simp] theorem State.consume_events (f : ModelFault) (b : Buffer) (n : Nat) :
    (s.consume f b n).events = s.events := rfl
@[simp] theorem State.consume_resp (f : ModelFault) (b : Buffer) (n : Nat) :
    (s.consume f b n).resp = s.resp := rfl
@[simp] theorem State.consume_draws (f : ModelFault) (b : Buffer) (n : Nat) :
    (s.consume f b n).draws = if b.allWritten n then s.draws else s.draws + n := rfl
@[simp] theorem State.consume_modelFault (f : ModelFault) (b : Buffer) (n : Nat) :
    (s.consume f b n).modelFault =
      if b.allWritten n then s.modelFault else s.modelFault.or (some f) := rfl

/-! `State.fail` -/

@[simp] theorem State.fail_irqEn (c : ErrorCode) : (s.fail c).irqEn = s.irqEn := rfl
@[simp] theorem State.fail_done (c : ErrorCode) : (s.fail c).done = true := rfl
@[simp] theorem State.fail_err (c : ErrorCode) : (s.fail c).err = true := rfl
@[simp] theorem State.fail_errCode (c : ErrorCode) : (s.fail c).errCode = c.code := rfl
@[simp] theorem State.fail_overrun (c : ErrorCode) : (s.fail c).overrun = s.overrun := rfl
@[simp] theorem State.fail_bits (c : ErrorCode) : (s.fail c).bits = s.bits := rfl
@[simp] theorem State.fail_rankResult (c : ErrorCode) : (s.fail c).rankResult = s.rankResult := rfl
@[simp] theorem State.fail_opbuf (c : ErrorCode) : (s.fail c).opbuf = s.opbuf := rfl
@[simp] theorem State.fail_matrix (c : ErrorCode) : (s.fail c).matrix = s.matrix := rfl
@[simp] theorem State.fail_modulus (c : ErrorCode) : (s.fail c).modulus = s.modulus := rfl
@[simp] theorem State.fail_genState (c : ErrorCode) : (s.fail c).genState = s.genState := rfl
@[simp] theorem State.fail_seedAcc (c : ErrorCode) : (s.fail c).seedAcc = s.seedAcc := rfl
@[simp] theorem State.fail_modValid (c : ErrorCode) : (s.fail c).modValid = s.modValid := rfl
@[simp] theorem State.fail_seeded (c : ErrorCode) : (s.fail c).seeded = s.seeded := rfl
@[simp] theorem State.fail_seedNonempty (c : ErrorCode) :
    (s.fail c).seedNonempty = s.seedNonempty := rfl
@[simp] theorem State.fail_pend (c : ErrorCode) : (s.fail c).pend = none := rfl
@[simp] theorem State.fail_params (c : ErrorCode) : (s.fail c).params = s.params := rfl
@[simp] theorem State.fail_events (c : ErrorCode) : (s.fail c).events = s.events := rfl
@[simp] theorem State.fail_resp (c : ErrorCode) : (s.fail c).resp = s.resp := rfl
@[simp] theorem State.fail_draws (c : ErrorCode) : (s.fail c).draws = s.draws := rfl
@[simp] theorem State.fail_modelFault (c : ErrorCode) : (s.fail c).modelFault = s.modelFault := rfl

/-! `State.dropWrite` -/

@[simp] theorem State.dropWrite_irqEn : s.dropWrite.irqEn = s.irqEn := rfl
@[simp] theorem State.dropWrite_done : s.dropWrite.done = s.done := rfl
@[simp] theorem State.dropWrite_err : s.dropWrite.err = s.err := rfl
@[simp] theorem State.dropWrite_errCode : s.dropWrite.errCode = s.errCode := rfl
@[simp] theorem State.dropWrite_overrun : s.dropWrite.overrun = true := rfl
@[simp] theorem State.dropWrite_bits : s.dropWrite.bits = s.bits := rfl
@[simp] theorem State.dropWrite_rankResult : s.dropWrite.rankResult = s.rankResult := rfl
@[simp] theorem State.dropWrite_opbuf : s.dropWrite.opbuf = s.opbuf := rfl
@[simp] theorem State.dropWrite_matrix : s.dropWrite.matrix = s.matrix := rfl
@[simp] theorem State.dropWrite_modulus : s.dropWrite.modulus = s.modulus := rfl
@[simp] theorem State.dropWrite_genState : s.dropWrite.genState = s.genState := rfl
@[simp] theorem State.dropWrite_seedAcc : s.dropWrite.seedAcc = s.seedAcc := rfl
@[simp] theorem State.dropWrite_modValid : s.dropWrite.modValid = s.modValid := rfl
@[simp] theorem State.dropWrite_seeded : s.dropWrite.seeded = s.seeded := rfl
@[simp] theorem State.dropWrite_seedNonempty : s.dropWrite.seedNonempty = s.seedNonempty := rfl
@[simp] theorem State.dropWrite_pend : s.dropWrite.pend = s.pend := rfl
@[simp] theorem State.dropWrite_params : s.dropWrite.params = s.params := rfl
@[simp] theorem State.dropWrite_events : s.dropWrite.events = s.events := rfl
@[simp] theorem State.dropWrite_resp : s.dropWrite.resp = s.resp := rfl
@[simp] theorem State.dropWrite_draws : s.dropWrite.draws = s.draws := rfl
@[simp] theorem State.dropWrite_modelFault : s.dropWrite.modelFault = s.modelFault := rfl

/-! `State.respond` -/

@[simp] theorem State.respond_irqEn (r : Response) : (s.respond r).irqEn = s.irqEn := rfl
@[simp] theorem State.respond_done (r : Response) : (s.respond r).done = s.done := rfl
@[simp] theorem State.respond_err (r : Response) : (s.respond r).err = s.err := rfl
@[simp] theorem State.respond_errCode (r : Response) : (s.respond r).errCode = s.errCode := rfl
@[simp] theorem State.respond_overrun (r : Response) : (s.respond r).overrun = s.overrun := rfl
@[simp] theorem State.respond_bits (r : Response) : (s.respond r).bits = s.bits := rfl
@[simp] theorem State.respond_rankResult (r : Response) :
    (s.respond r).rankResult = s.rankResult := rfl
@[simp] theorem State.respond_opbuf (r : Response) : (s.respond r).opbuf = s.opbuf := rfl
@[simp] theorem State.respond_matrix (r : Response) : (s.respond r).matrix = s.matrix := rfl
@[simp] theorem State.respond_modulus (r : Response) : (s.respond r).modulus = s.modulus := rfl
@[simp] theorem State.respond_genState (r : Response) : (s.respond r).genState = s.genState := rfl
@[simp] theorem State.respond_seedAcc (r : Response) : (s.respond r).seedAcc = s.seedAcc := rfl
@[simp] theorem State.respond_modValid (r : Response) : (s.respond r).modValid = s.modValid := rfl
@[simp] theorem State.respond_seeded (r : Response) : (s.respond r).seeded = s.seeded := rfl
@[simp] theorem State.respond_seedNonempty (r : Response) :
    (s.respond r).seedNonempty = s.seedNonempty := rfl
@[simp] theorem State.respond_pend (r : Response) : (s.respond r).pend = s.pend := rfl
@[simp] theorem State.respond_params (r : Response) : (s.respond r).params = s.params := rfl
@[simp] theorem State.respond_events (r : Response) : (s.respond r).events = s.events := rfl
@[simp] theorem State.respond_resp (r : Response) : (s.respond r).resp = some r := rfl
@[simp] theorem State.respond_draws (r : Response) : (s.respond r).draws = s.draws := rfl
@[simp] theorem State.respond_modelFault (r : Response) :
    (s.respond r).modelFault = s.modelFault := rfl

/-! `State.respondDraw` -/

@[simp] theorem State.respondDraw_irqEn : s.respondDraw.irqEn = s.irqEn := rfl
@[simp] theorem State.respondDraw_done : s.respondDraw.done = s.done := rfl
@[simp] theorem State.respondDraw_err : s.respondDraw.err = s.err := rfl
@[simp] theorem State.respondDraw_errCode : s.respondDraw.errCode = s.errCode := rfl
@[simp] theorem State.respondDraw_overrun : s.respondDraw.overrun = s.overrun := rfl
@[simp] theorem State.respondDraw_bits : s.respondDraw.bits = s.bits := rfl
@[simp] theorem State.respondDraw_rankResult : s.respondDraw.rankResult = s.rankResult := rfl
@[simp] theorem State.respondDraw_opbuf : s.respondDraw.opbuf = s.opbuf := rfl
@[simp] theorem State.respondDraw_matrix : s.respondDraw.matrix = s.matrix := rfl
@[simp] theorem State.respondDraw_modulus : s.respondDraw.modulus = s.modulus := rfl
@[simp] theorem State.respondDraw_genState : s.respondDraw.genState = s.genState := rfl
@[simp] theorem State.respondDraw_seedAcc : s.respondDraw.seedAcc = s.seedAcc := rfl
@[simp] theorem State.respondDraw_modValid : s.respondDraw.modValid = s.modValid := rfl
@[simp] theorem State.respondDraw_seeded : s.respondDraw.seeded = s.seeded := rfl
@[simp] theorem State.respondDraw_seedNonempty : s.respondDraw.seedNonempty = s.seedNonempty := rfl
@[simp] theorem State.respondDraw_pend : s.respondDraw.pend = s.pend := rfl
@[simp] theorem State.respondDraw_params : s.respondDraw.params = s.params := rfl
@[simp] theorem State.respondDraw_events : s.respondDraw.events = s.events := rfl
@[simp] theorem State.respondDraw_resp :
    s.respondDraw.resp = some (.data (Config.freeValue s.draws)) := rfl
@[simp] theorem State.respondDraw_draws : s.respondDraw.draws = s.draws + 1 := rfl
@[simp] theorem State.respondDraw_modelFault : s.respondDraw.modelFault = s.modelFault := rfl

/-! `State.clearStatus` -/

@[simp] theorem State.clearStatus_irqEn (v : Word) : (s.clearStatus v).irqEn = s.irqEn := rfl
@[simp] theorem State.clearStatus_done (v : Word) :
    (s.clearStatus v).done = (s.done && !v.getLsbD 1) := rfl
@[simp] theorem State.clearStatus_err (v : Word) : (s.clearStatus v).err = s.err := rfl
@[simp] theorem State.clearStatus_errCode (v : Word) : (s.clearStatus v).errCode = s.errCode := rfl
@[simp] theorem State.clearStatus_overrun (v : Word) :
    (s.clearStatus v).overrun = (s.overrun && !v.getLsbD 3) := rfl
@[simp] theorem State.clearStatus_bits (v : Word) : (s.clearStatus v).bits = s.bits := rfl
@[simp] theorem State.clearStatus_rankResult (v : Word) :
    (s.clearStatus v).rankResult = s.rankResult := rfl
@[simp] theorem State.clearStatus_opbuf (v : Word) : (s.clearStatus v).opbuf = s.opbuf := rfl
@[simp] theorem State.clearStatus_matrix (v : Word) : (s.clearStatus v).matrix = s.matrix := rfl
@[simp] theorem State.clearStatus_modulus (v : Word) : (s.clearStatus v).modulus = s.modulus := rfl
@[simp] theorem State.clearStatus_genState (v : Word) :
    (s.clearStatus v).genState = s.genState := rfl
@[simp] theorem State.clearStatus_seedAcc (v : Word) : (s.clearStatus v).seedAcc = s.seedAcc := rfl
@[simp] theorem State.clearStatus_modValid (v : Word) :
    (s.clearStatus v).modValid = s.modValid := rfl
@[simp] theorem State.clearStatus_seeded (v : Word) : (s.clearStatus v).seeded = s.seeded := rfl
@[simp] theorem State.clearStatus_seedNonempty (v : Word) :
    (s.clearStatus v).seedNonempty = s.seedNonempty := rfl
@[simp] theorem State.clearStatus_pend (v : Word) : (s.clearStatus v).pend = s.pend := rfl
@[simp] theorem State.clearStatus_params (v : Word) : (s.clearStatus v).params = s.params := rfl
@[simp] theorem State.clearStatus_events (v : Word) : (s.clearStatus v).events = s.events := rfl
@[simp] theorem State.clearStatus_resp (v : Word) : (s.clearStatus v).resp = s.resp := rfl
@[simp] theorem State.clearStatus_draws (v : Word) : (s.clearStatus v).draws = s.draws := rfl
@[simp] theorem State.clearStatus_modelFault (v : Word) :
    (s.clearStatus v).modelFault = s.modelFault := rfl

/-! `State.placeCommand` -/

@[simp] theorem State.placeCommand_irqEn (w : Word) : (s.placeCommand w).irqEn = s.irqEn := rfl
@[simp] theorem State.placeCommand_done (w : Word) : (s.placeCommand w).done = false := rfl
@[simp] theorem State.placeCommand_err (w : Word) : (s.placeCommand w).err = false := rfl
@[simp] theorem State.placeCommand_errCode (w : Word) : (s.placeCommand w).errCode = 0 := rfl
@[simp] theorem State.placeCommand_overrun (w : Word) :
    (s.placeCommand w).overrun = s.overrun := rfl
@[simp] theorem State.placeCommand_bits (w : Word) : (s.placeCommand w).bits = s.bits := rfl
@[simp] theorem State.placeCommand_rankResult (w : Word) :
    (s.placeCommand w).rankResult = s.rankResult := rfl
@[simp] theorem State.placeCommand_opbuf (w : Word) : (s.placeCommand w).opbuf = s.opbuf := rfl
@[simp] theorem State.placeCommand_matrix (w : Word) : (s.placeCommand w).matrix = s.matrix := rfl
@[simp] theorem State.placeCommand_modulus (w : Word) :
    (s.placeCommand w).modulus = s.modulus := rfl
@[simp] theorem State.placeCommand_genState (w : Word) :
    (s.placeCommand w).genState = s.genState := rfl
@[simp] theorem State.placeCommand_seedAcc (w : Word) :
    (s.placeCommand w).seedAcc = s.seedAcc := rfl
@[simp] theorem State.placeCommand_modValid (w : Word) :
    (s.placeCommand w).modValid = s.modValid := rfl
@[simp] theorem State.placeCommand_seeded (w : Word) : (s.placeCommand w).seeded = s.seeded := rfl
@[simp] theorem State.placeCommand_seedNonempty (w : Word) :
    (s.placeCommand w).seedNonempty = s.seedNonempty := rfl
@[simp] theorem State.placeCommand_pend (w : Word) : (s.placeCommand w).pend = some w := rfl
@[simp] theorem State.placeCommand_params (w : Word) : (s.placeCommand w).params = s.params := rfl
@[simp] theorem State.placeCommand_events (w : Word) :
    (s.placeCommand w).events = .complete :: s.events := rfl
@[simp] theorem State.placeCommand_resp (w : Word) : (s.placeCommand w).resp = s.resp := rfl
@[simp] theorem State.placeCommand_draws (w : Word) : (s.placeCommand w).draws = s.draws := rfl
@[simp] theorem State.placeCommand_modelFault (w : Word) :
    (s.placeCommand w).modelFault = s.modelFault := rfl

/-! `State.performReset` -/

@[simp] theorem State.performReset_irqEn : s.performReset.irqEn = false := rfl
@[simp] theorem State.performReset_done : s.performReset.done = false := rfl
@[simp] theorem State.performReset_err : s.performReset.err = false := rfl
@[simp] theorem State.performReset_errCode : s.performReset.errCode = 0 := rfl
@[simp] theorem State.performReset_overrun : s.performReset.overrun = false := rfl
@[simp] theorem State.performReset_bits : s.performReset.bits = 0 := rfl
@[simp] theorem State.performReset_rankResult : s.performReset.rankResult = 0 := rfl
@[simp] theorem State.performReset_opbuf : s.performReset.opbuf = Buffer.fresh s.params.nw := rfl
@[simp] theorem State.performReset_matrix : s.performReset.matrix = Buffer.fresh Config.matN := rfl
@[simp] theorem State.performReset_modulus : s.performReset.modulus = 0 := rfl
@[simp] theorem State.performReset_genState : s.performReset.genState = 0 := rfl
@[simp] theorem State.performReset_seedAcc : s.performReset.seedAcc = 0 := rfl
@[simp] theorem State.performReset_modValid : s.performReset.modValid = false := rfl
@[simp] theorem State.performReset_seeded : s.performReset.seeded = false := rfl
@[simp] theorem State.performReset_seedNonempty : s.performReset.seedNonempty = false := rfl
@[simp] theorem State.performReset_pend : s.performReset.pend = none := rfl
@[simp] theorem State.performReset_params : s.performReset.params = s.params := rfl
@[simp] theorem State.performReset_events : s.performReset.events = s.events := rfl
@[simp] theorem State.performReset_resp : s.performReset.resp = s.resp := rfl
@[simp] theorem State.performReset_draws : s.performReset.draws = s.draws := rfl
@[simp] theorem State.performReset_modelFault : s.performReset.modelFault = s.modelFault := rfl

/-! `State.resetOf`: the values of R48. -/

@[simp] theorem State.resetOf_irqEn (p : Params) : (State.resetOf p).irqEn = false := rfl
@[simp] theorem State.resetOf_done (p : Params) : (State.resetOf p).done = false := rfl
@[simp] theorem State.resetOf_err (p : Params) : (State.resetOf p).err = false := rfl
@[simp] theorem State.resetOf_errCode (p : Params) : (State.resetOf p).errCode = 0 := rfl
@[simp] theorem State.resetOf_overrun (p : Params) : (State.resetOf p).overrun = false := rfl
@[simp] theorem State.resetOf_bits (p : Params) : (State.resetOf p).bits = 0 := rfl
@[simp] theorem State.resetOf_rankResult (p : Params) : (State.resetOf p).rankResult = 0 := rfl
@[simp] theorem State.resetOf_opbuf (p : Params) : (State.resetOf p).opbuf = Buffer.fresh p.nw := rfl
@[simp] theorem State.resetOf_matrix (p : Params) : (State.resetOf p).matrix = Buffer.fresh Config.matN := rfl
@[simp] theorem State.resetOf_modulus (p : Params) : (State.resetOf p).modulus = 0 := rfl
@[simp] theorem State.resetOf_genState (p : Params) : (State.resetOf p).genState = 0 := rfl
@[simp] theorem State.resetOf_seedAcc (p : Params) : (State.resetOf p).seedAcc = 0 := rfl
@[simp] theorem State.resetOf_modValid (p : Params) : (State.resetOf p).modValid = false := rfl
@[simp] theorem State.resetOf_seeded (p : Params) : (State.resetOf p).seeded = false := rfl
@[simp] theorem State.resetOf_seedNonempty (p : Params) : (State.resetOf p).seedNonempty = false := rfl
@[simp] theorem State.resetOf_pend (p : Params) : (State.resetOf p).pend = none := rfl
@[simp] theorem State.resetOf_params (p : Params) : (State.resetOf p).params = p := rfl
@[simp] theorem State.resetOf_events (p : Params) : (State.resetOf p).events = [] := rfl
@[simp] theorem State.resetOf_resp (p : Params) : (State.resetOf p).resp = none := rfl
@[simp] theorem State.resetOf_draws (p : Params) : (State.resetOf p).draws = 0 := rfl
@[simp] theorem State.resetOf_modelFault (p : Params) : (State.resetOf p).modelFault = none := rfl

end Sys2Proof.Machine
end

