-- ==== Sys2Proof/Laws/Bus.lean ====
section
/-! SUPPORT. What a host transaction can do, and that the register map of R22 gives each register its
own offset. -/

namespace Sys2Proof.Machine

/-- An aligned 32-bit access inside the window selects the register at its offset (R22, R62). -/
theorem selectReg_base (p : Params) {off : Nat} (h : off < 0x2000) (ha : off % 4 = 0) :
    selectReg p 32 (p.base + off) = some (Reg.ofOffset p.nw off) := by
  unfold selectReg windowBytes
  rw [if_pos ⟨rfl, by omega, by omega, by rw [Nat.add_sub_cancel_left]; exact ha⟩,
    Nat.add_sub_cancel_left]

theorem ofOffset_matrix (nw : Nat) {r : Nat} (h : r < 32) :
    Reg.ofOffset nw (0x0100 + 4 * r) = .matrix r := by
  unfold Reg.ofOffset
  repeat rw [if_neg (by omega)]
  rw [if_pos (by omega)]
  congr 1
  omega

theorem ofOffset_opbuf {nw j : Nat} (h : j < nw) :
    Reg.ofOffset nw (0x1000 + 4 * j) = .opbuf j := by
  unfold Reg.ofOffset
  repeat rw [if_neg (by omega)]
  rw [if_pos (by omega)]
  congr 1
  omega

theorem ofOffset_reserved {nw off : Nat}
    (h : (0x001C ≤ off ∧ off < 0x0100) ∨ (0x0180 ≤ off ∧ off < 0x1000) ∨
      (0x1000 + 4 * nw ≤ off ∧ off < 0x2000)) : Reg.ofOffset nw off = .reserved := by
  unfold Reg.ofOffset
  repeat rw [if_neg (by omega)]

/-- A read changes only the model's own response and draw count (R65). -/
theorem State.busRead_frame (width addr : Nat) (s : State) :
    ∃ r n, s.busRead width addr = { s with resp := some r, draws := n } := by
  unfold State.busRead
  split
  · exact ⟨_, _, rfl⟩
  · split
    · exact ⟨_, _, rfl⟩
    · exact ⟨_, _, rfl⟩

/-- What a write to a register can do. -/
theorem State.writeReg_cases (v : Word) (s : State) (r : Reg) :
    s.writeReg v r = s ∨
    (r = .ctrl ∧ v.getLsbD 1 = true ∧ s.writeReg v r = s.performReset) ∨
    (r = .ctrl ∧ v.getLsbD 1 = false ∧ s.writeReg v r = { s with irqEn := v.getLsbD 0 }) ∨
    (r = .status ∧ s.writeReg v r = s.clearStatus v) ∨
    (r = .cmd ∧ s.pend = none ∧ s.writeReg v r = s.accept v) ∨
    (s.pend ≠ none ∧ (r = .cmd ∨ (∃ k, r = .matrix k) ∨ ∃ j, r = .opbuf j) ∧
      s.writeReg v r = s.dropWrite) ∨
    (s.pend = none ∧ ∃ k, r = .matrix k ∧
      s.writeReg v r = { s with matrix := s.matrix.store k v }) ∨
    (s.pend = none ∧ ∃ j, r = .opbuf j ∧
      s.writeReg v r = { s with opbuf := s.opbuf.store j v }) := by
  have hb : s.busy = true ↔ s.pend ≠ none := by
    cases h : s.pend <;> simp [State.busy, h]
  have hn : s.busy = false ↔ s.pend = none := by
    cases h : s.pend <;> simp [State.busy, h]
  cases r <;> simp only [State.writeReg]
  case ctrl =>
    by_cases h : v.getLsbD 1 = true
    · exact .inr (.inl ⟨trivial, h, if_pos h⟩)
    · exact .inr (.inr (.inl ⟨trivial, by simpa using h, if_neg h⟩))
  case cmd =>
    by_cases h : s.busy = true
    · simp [h, hb.1 h]
    · have h' := hn.1 (by simpa using h)
      simp [h, h']
  case matrix k =>
    by_cases h : s.busy = true
    · simp [h, hb.1 h]
    · have h' := hn.1 (by simpa using h)
      simp [h, h']
  case opbuf j =>
    by_cases h : s.busy = true
    · simp [h, hb.1 h]
    · have h' := hn.1 (by simpa using h)
      simp [h, h']
  all_goals simp

end Sys2Proof.Machine
end

