-- ==== Sys2Proof/Laws/Decode.lean ====
section
/-! SUPPORT. The fields of an encoded word (R80) and the opcode map (R83), said once. -/

namespace Sys2Proof

@[simp] theorem opField_enc (op imm : Byte) : opField (enc op imm) = op := by
  ext i hi
  simp only [opField, enc, BitVec.getElem_extractLsb', BitVec.getLsbD_or, BitVec.getLsbD_shiftLeft,
    BitVec.getLsbD_setWidth]
  have h1 : 24 + i < 32 := by omega
  have h2 : ¬ 24 + i < 24 := by omega
  have h3 : imm.getLsbD (24 + i) = false := BitVec.getLsbD_of_ge _ _ (by omega)
  simp [h1, h2, h3, BitVec.getLsbD_eq_getElem hi, show i < 32 by omega]

@[simp] theorem rsvField_enc (op imm : Byte) : rsvField (enc op imm) = 0 := by
  ext i hi
  simp only [rsvField, enc, BitVec.getElem_extractLsb', BitVec.getLsbD_or, BitVec.getLsbD_shiftLeft,
    BitVec.getLsbD_setWidth]
  have h2 : 8 + i < 24 := by omega
  simp [h2]

@[simp] theorem immField_enc (op imm : Byte) : immField (enc op imm) = imm := by
  ext i hi
  simp only [immField, enc, BitVec.getElem_extractLsb', BitVec.getLsbD_or, BitVec.getLsbD_shiftLeft,
    BitVec.getLsbD_setWidth]
  have h2 : i < 24 := by omega
  simp [h2, BitVec.getLsbD_eq_getElem hi, show i < 32 by omega]

/-- OP as a number (R80). -/
theorem opField_toNat (w : Word) : (opField w).toNat = w.toNat / 16777216 % 256 := by
  simp only [opField, BitVec.extractLsb'_toNat, Nat.shiftRight_eq_div_pow, Nat.reducePow]

/-- RSV as a number (R80). -/
theorem rsvField_toNat (w : Word) : (rsvField w).toNat = w.toNat / 256 % 65536 := by
  simp only [rsvField, BitVec.extractLsb'_toNat, Nat.shiftRight_eq_div_pow, Nat.reducePow]

/-- IMM as a number (R80). -/
theorem immField_toNat (w : Word) : (immField w).toNat = w.toNat % 256 := by
  simp only [immField, BitVec.extractLsb'_toNat, Nat.shiftRight_zero, Nat.reducePow]

/-- A word is its three fields (R80). -/
theorem word_fields (w : Word) : opField w ++ rsvField w ++ immField w = w := by
  ext i hi
  simp only [opField, rsvField, immField, BitVec.getElem_append, BitVec.getElem_extractLsb']
  split
  · simp [BitVec.getLsbD_eq_getElem hi]
  · split
    · rw [show 8 + (i - 8) = i by omega, BitVec.getLsbD_eq_getElem hi]
    · rw [show 24 + (i - 8 - 16) = i by omega, BitVec.getLsbD_eq_getElem hi]

@[simp] theorem Opcode.ofField_field (op : Opcode) : Opcode.ofField op.field = some op := by
  cases op <;> rfl

/-- The opcode map is one to one: a defined OP value is its opcode's own (R83). -/
theorem Opcode.field_of_ofField {b : Byte} {op : Opcode} (h : Opcode.ofField b = some op) :
    op.field = b := by
  revert op
  revert b
  decide

@[simp] theorem Opcode.instr_opcode_imm (i : Instr) : i.opcode.instr i.imm = i := by
  cases i <;> rfl

@[simp] theorem Opcode.opcode_instr (op : Opcode) (imm : Byte) : (op.instr imm).opcode = op := by
  cases op <;> rfl

end Sys2Proof
end

