-- ==== Sys2Proof/Laws/Gf2.lean ====
section
/-! SUPPORT. The elimination keeps the number of rows (R163, R164), and the candidates of a step are
the indices those rules name. -/

namespace Sys2Proof.Machine.Gf2

theorem mem_below {d i k : Nat} : k ∈ below d i ↔ i < k ∧ k < d := by
  simp [below, and_comm]

theorem mem_above {i k : Nat} : k ∈ above i ↔ k < i := by simp [above]

@[simp] theorem length_swapRows (A : List Word) (i k : Nat) :
    (swapRows A i k).length = A.length := by simp [swapRows]

@[simp] theorem length_pivotSwap (A : List Word) (i : Nat) (cands : List Nat) :
    (pivotSwap A i cands).length = A.length := by
  unfold pivotSwap
  split
  · rfl
  · split <;> simp

@[simp] theorem length_clearColumn (A : List Word) (i : Nat) (cands : List Nat) :
    (clearColumn A i cands).length = A.length := by
  unfold clearColumn
  split <;> simp

@[simp] theorem length_passStep (A : List Word) (i : Nat) (cands : List Nat) :
    (passStep A i cands).length = A.length := by simp [passStep]

/-- A fold of steps that each keep the number of rows keeps it. -/
theorem length_foldl {f : List Word → Nat → List Word} (hf : ∀ B j, (f B j).length = B.length)
    (l : List Nat) (A : List Word) : (l.foldl f A).length = A.length := by
  induction l generalizing A with
  | nil => rfl
  | cons j l ih => rw [List.foldl_cons, ih, hf]

@[simp] theorem length_forwardPass (d : Nat) (A : List Word) :
    (forwardPass d A).length = A.length :=
  length_foldl (fun _ _ => length_passStep _ _ _) _ _

@[simp] theorem length_backwardPass (d : Nat) (A : List Word) :
    (backwardPass d A).length = A.length :=
  length_foldl (fun _ _ => length_passStep _ _ _) _ _

@[simp] theorem length_eliminate (d : Nat) (A : List Word) :
    (eliminate d A).length = A.length := by simp [eliminate]

/-- The count is at most the number of rows (R167). -/
theorem nonzeroRows_le (A : List Word) : nonzeroRows A ≤ A.length := List.countP_le_length

end Sys2Proof.Machine.Gf2
end

