-- ==== Sys2Proof/Laws/Exec.lean ====
section
/-! SUPPORT. What each meaning does, said once: if it answers a next state, then one of these cases
holds; and what every command leaves alone. -/

namespace Sys2Proof.Machine

variable {s t : State}

theorem execNop_next (h : execNop s = .next t) : t = s.succeed := by
  simpa [execNop] using h.symm

theorem execLoadModulus_next (h : execLoadModulus s = .next t) :
    (s.opbufValue < 2 ∧ t = (s.consume .unwrittenOpbuf s.opbuf s.params.nw).fail .degenerateModulus) ∨
      (2 ≤ s.opbufValue ∧
        t = ({ s.consume .unwrittenOpbuf s.opbuf s.params.nw with
          modulus := s.opbufValue, modValid := true, genState := 0, seeded := false
          seedAcc := 0, seedNonempty := false } : State).succeed) := by
  simp only [execLoadModulus, Host.Outcome.next.injEq] at h
  split at h
  · exact .inl ⟨‹_›, h.symm⟩
  · exact .inr ⟨by omega, h.symm⟩

theorem execSeedClear_next (h : execSeedClear s = .next t) :
    t = ({ s with seedAcc := 0, seedNonempty := false } : State).succeed := by
  simpa [execSeedClear] using h.symm

theorem execSeedAbsorb_next {b : Byte} (h : execSeedAbsorb b s = .next t) :
    (s.modValid = true ∧
      t = ({ s with
        seedAcc := (s.seedAcc * 256 + b.toNat) % s.modulus, seedNonempty := true } :
          State).succeed) ∨
    (s.modValid = false ∧ t = s.fail .noModulus) := by
  unfold execSeedAbsorb immValue at h
  split at h
  · exact .inl ⟨‹_›, by simpa using h.symm⟩
  · exact .inr ⟨Bool.eq_false_of_not_eq_true ‹_›, by simpa using h.symm⟩

theorem execSeedCommit_next (h : execSeedCommit s = .next t) :
    (s.modValid = true ∧ s.seedNonempty = true ∧
      t = ({ s with
        genState := s.seedAcc, seeded := true, seedAcc := 0, seedNonempty := false } :
          State).succeed) ∨
    (s.modValid = true ∧ s.seedNonempty = false ∧ t = s.fail .emptySeed) ∨
    (s.modValid = false ∧ t = s.fail .noModulus) := by
  unfold execSeedCommit at h
  split at h
  · split at h
    · exact .inl ⟨‹_›, ‹_›, by simpa using h.symm⟩
    · exact .inr (.inl ⟨‹_›, Bool.eq_false_of_not_eq_true ‹_›, by simpa using h.symm⟩)
  · exact .inr (.inr ⟨Bool.eq_false_of_not_eq_true ‹_›, by simpa using h.symm⟩)

theorem execNextBits_next {c : Byte} (h : execNextBits c s = .next t) :
    (32 < c.toNat ∧ t = s.fail .badArg) ∨
    (c.toNat ≤ 32 ∧ s.modValid = true ∧ s.seeded = true ∧
      t = ({ s with
        genState := (emit s.modulus c.toNat s.genState 0).1
        bits := (emit s.modulus c.toNat s.genState 0).2 } : State).succeed) ∨
    (c.toNat ≤ 32 ∧ s.modValid = true ∧ s.seeded = false ∧ t = s.fail .unseeded) ∨
    (c.toNat ≤ 32 ∧ s.modValid = false ∧ t = s.fail .noModulus) := by
  unfold execNextBits immValue at h
  split at h
  · exact .inl ⟨‹_›, by simpa using h.symm⟩
  · split at h
    · split at h
      · exact .inr (.inl ⟨by omega, ‹_›, ‹_›, by simpa using h.symm⟩)
      · exact .inr (.inr (.inl ⟨by omega, ‹_›, Bool.eq_false_of_not_eq_true ‹_›, by simpa using h.symm⟩))
    · exact .inr (.inr (.inr ⟨by omega, Bool.eq_false_of_not_eq_true ‹_›, by simpa using h.symm⟩))

theorem execRank_next {d : Byte} (h : execRank d s = .next t) :
    ((d.toNat = 0 ∨ 32 < d.toNat) ∧ t = s.fail .badArg) ∨
    (1 ≤ d.toNat ∧ d.toNat ≤ 32 ∧
      t = ({ s.consume .unwrittenMatrix s.matrix d.toNat with
        matrix := writeRows d.toNat (Gf2.eliminate d.toNat (s.matrixRows d.toNat)) s.draws s.matrix
        rankResult := BitVec.ofNat 32
          (Gf2.nonzeroRows (Gf2.eliminate d.toNat (s.matrixRows d.toNat))) } : State).succeed) := by
  unfold execRank immValue at h
  split at h
  · exact .inl ⟨‹_›, by simpa using h.symm⟩
  · exact .inr ⟨by omega, by omega, by simpa using h.symm⟩

/-- The rank fits RANK_RESULT's field (R37, R167). -/
theorem rank_toNat_le (s : State) {d : Nat} (h : d ≤ 32) :
    (BitVec.ofNat 32 (Gf2.nonzeroRows (Gf2.eliminate d (s.matrixRows d)))).toNat ≤ d := by
  have hle := Gf2.nonzeroRows_le (Gf2.eliminate d (s.matrixRows d))
  simp only [Gf2.length_eliminate, State.length_matrixRows] at hle
  rw [BitVec.toNat_ofNat, Nat.mod_eq_of_lt (by omega)]
  exact hle

/-- What no command writes (R49), and the completion fields every command leaves (R104). -/
theorem exec_next_frame {i : Instr} (h : exec i s = .next t) :
    t.pend = none ∧ t.done = true ∧ t.irqEn = s.irqEn ∧ t.overrun = s.overrun ∧
      t.opbuf = s.opbuf ∧ t.params = s.params ∧ t.events = s.events ∧ t.resp = s.resp := by
  cases i with
  | nop => obtain rfl := execNop_next h; simp
  | loadModulus => obtain ⟨-, rfl⟩ | ⟨-, rfl⟩ := execLoadModulus_next h <;> simp
  | seedClear => obtain rfl := execSeedClear_next h; simp
  | seedAbsorb b => obtain ⟨-, rfl⟩ | ⟨-, rfl⟩ := execSeedAbsorb_next h <;> simp
  | seedCommit =>
    obtain ⟨-, -, rfl⟩ | ⟨-, -, rfl⟩ | ⟨-, rfl⟩ := execSeedCommit_next h <;> simp
  | nextBits c =>
    obtain ⟨-, rfl⟩ | ⟨-, -, -, rfl⟩ | ⟨-, -, -, rfl⟩ | ⟨-, -, rfl⟩ := execNextBits_next h <;> simp
  | rank d => obtain ⟨-, rfl⟩ | ⟨-, -, rfl⟩ := execRank_next h <;> simp

/-- Which commands move the model's own fields: those that consume an unwritten word (R50, R110). -/
theorem exec_next_draws {i : Instr} (h : exec i s = .next t) :
    (t.draws = s.draws ∧ t.modelFault = s.modelFault) ∨
    (i = .loadModulus ∧ s.opbuf.allWritten s.params.nw = false ∧
      t.draws = s.draws + s.params.nw ∧
      t.modelFault = s.modelFault.or (some .unwrittenOpbuf)) ∨
    ∃ d, i = .rank d ∧ s.matrix.allWritten d.toNat = false ∧ t.draws = s.draws + d.toNat ∧
      t.modelFault = s.modelFault.or (some .unwrittenMatrix) := by
  cases i with
  | nop => obtain rfl := execNop_next h; simp
  | loadModulus =>
    cases hw : s.opbuf.allWritten s.params.nw
    · obtain ⟨-, rfl⟩ | ⟨-, rfl⟩ := execLoadModulus_next h <;> simp [s.consume_unwritten hw]
    · obtain ⟨-, rfl⟩ | ⟨-, rfl⟩ := execLoadModulus_next h <;> simp [s.consume_written hw]
  | seedClear => obtain rfl := execSeedClear_next h; simp
  | seedAbsorb b => obtain ⟨-, rfl⟩ | ⟨-, rfl⟩ := execSeedAbsorb_next h <;> simp
  | seedCommit =>
    obtain ⟨-, -, rfl⟩ | ⟨-, -, rfl⟩ | ⟨-, rfl⟩ := execSeedCommit_next h <;> simp
  | nextBits c =>
    obtain ⟨-, rfl⟩ | ⟨-, -, -, rfl⟩ | ⟨-, -, -, rfl⟩ | ⟨-, -, rfl⟩ := execNextBits_next h <;> simp
  | rank d =>
    obtain ⟨-, rfl⟩ | ⟨-, -, rfl⟩ := execRank_next h
    · simp
    · cases hw : s.matrix.allWritten d.toNat
      · exact .inr (.inr ⟨d, rfl, hw, by simp [s.consume_unwritten hw]⟩)
      · simp [s.consume_written hw]

end Sys2Proof.Machine
end

