-- ==== Sys2Proof/Laws/PerInstr.lean ====
section
/-! SUPPORT. The family `Encoding`: what the fields of each command's word are (R80, R81, R83). -/

namespace Sys2Proof.Laws.Encoding

/-- The word of a command has the command's OP, RSV = 0 and the command's IMM; a command that takes no
immediate has IMM = 0. -/
def Statement (i : Instr) : Prop :=
  Opcode.ofField (opField (encode i)) = some i.opcode ∧ rsvField (encode i) = 0 ∧
    immField (encode i) = i.imm ∧ (i.opcode.takesImm = false → i.imm = 0)

theorem nop : Statement .nop := by simp [Statement, encode, Instr.imm]

theorem loadModulus : Statement .loadModulus := by simp [Statement, encode, Instr.imm]

theorem seedClear : Statement .seedClear := by simp [Statement, encode, Instr.imm]

theorem seedAbsorb (b : Byte) : Statement (.seedAbsorb b) := by
  simp [Statement, encode, Instr.opcode, Opcode.takesImm]

theorem seedCommit : Statement .seedCommit := by simp [Statement, encode, Instr.imm]

theorem nextBits (count : Byte) : Statement (.nextBits count) := by
  simp [Statement, encode, Instr.opcode, Opcode.takesImm]

theorem rank (d : Byte) : Statement (.rank d) := by
  simp [Statement, encode, Instr.opcode, Opcode.takesImm]

end Sys2Proof.Laws.Encoding
end

