-- ==== Sys2Proof/Laws/Step.lean ====
section
/-! SUPPORT. What one step can do (R110), said once. -/

namespace Sys2Proof.Machine

@[simp] theorem nextEvent_nil {s : State} (h : s.events = []) : nextEvent s = (.complete, []) := by
  simp [nextEvent, h]

@[simp] theorem nextEvent_cons {s : State} {e : Event} {rest : List Event}
    (h : s.events = e :: rest) : nextEvent s = (e, rest) := by
  simp [nextEvent, h]

theorem step_cons {s : State} {e : Event} {rest : List Event} (h : s.events = e :: rest) :
    step s = runEvent e { s with events := rest } := by
  simp [step, nextEvent_cons h]

theorem step_nil {s : State} (h : s.events = []) : step s = completion s := by
  have hs : ({ s with events := [] } : State) = s := by rw [← h]
  simp [step, nextEvent_nil h, runEvent, hs]

/-- The completion of a legal word is `exec` of its command (R104). -/
theorem completion_valid {s : State} {w : Word} {i : Instr} (hp : s.pend = some w)
    (hd : decode w = .valid i) : completion s = exec i s := by
  simp only [completion, hp, hd]

/-- The completion of an illegal word is its error (R104). -/
theorem completion_error {s : State} {w : Word} {c : ErrorCode} (hp : s.pend = some w)
    (hd : decode w = .error c) : completion s = .next (s.fail c) := by
  simp only [completion, hp, hd]

/-- Which states a completion can lead to (R102, R104). -/
theorem completion_next {s t : State} (h : completion s = .next t) :
    (s.pend = none ∧ t = s) ∨
    (∃ w c, s.pend = some w ∧ decode w = .error c ∧ t = s.fail c) ∨
    ∃ w i, s.pend = some w ∧ decode w = .valid i ∧ exec i s = .next t := by
  unfold completion at h
  split at h
  · exact .inl ⟨‹_›, by simpa using h.symm⟩
  · split at h
    · exact .inr (.inl ⟨_, _, ‹_›, ‹_›, by simpa using h.symm⟩)
    · exact .inr (.inr ⟨_, _, ‹_›, ‹_›, h⟩)

/-- The four kinds of step (R110). -/
theorem step_next {s t : State} (h : step s = .next t) :
    (∃ width addr, (nextEvent s).1 = .busRead width addr ∧
      t = ({ s with events := (nextEvent s).2 } : State).busRead width addr) ∨
    (∃ width addr v, (nextEvent s).1 = .busWrite width addr v ∧
      t = ({ s with events := (nextEvent s).2 } : State).busWrite width addr v) ∨
    ((nextEvent s).1 = .complete ∧
      completion { s with events := (nextEvent s).2 } = .next t) ∨
    ((nextEvent s).1 = .resetInput ∧
      t = ({ s with events := (nextEvent s).2 } : State).performReset) := by
  unfold step at h
  cases he : (nextEvent s).1 <;> rw [he] at h <;> simp only [runEvent] at h
  · exact .inl ⟨_, _, rfl, by simpa using h.symm⟩
  · exact .inr (.inl ⟨_, _, _, rfl, by simpa using h.symm⟩)
  · exact .inr (.inr (.inl ⟨rfl, h⟩))
  · exact .inr (.inr (.inr ⟨rfl, by simpa using h.symm⟩))

/-- A run goes on from the state its first step answers. -/
theorem core_run_succ {s t : State} (k : Nat) (h : step s = .next t) :
    core.run (k + 1) s = core.run k t := by
  have h' : core.step s = .next t := h
  simp only [Host.Core.run, h']

/-- The buffers of the reset state have the one form a buffer has (R48). -/
theorem reset_buffers_wf (p : Params) :
    (State.resetOf p).opbuf.wf p.nw ∧ (State.resetOf p).matrix.wf Config.matN :=
  ⟨Buffer.fresh_wf _, Buffer.fresh_wf _⟩

/-- A command of a table row is placed so that the very next step runs it. -/
theorem step_withFetchWord {s : State} {nbits w : Nat} {i : Instr}
    (h : decodeTableWord nbits w = some i) :
    step (s.withFetchWord nbits w) = exec i (s.accept (BitVec.ofNat 32 (w % 2 ^ nbits))) := by
  have hd : decode (BitVec.ofNat 32 (w % 2 ^ nbits)) = .valid i := by
    unfold decodeTableWord at h
    split at h
    · simpa using ‹decode _ = _›.trans (congrArg _ (Option.some.inj h))
    · cases h
  rw [step_cons (e := .complete) (rest := s.events) rfl]
  show completion (s.accept (BitVec.ofNat 32 (w % 2 ^ nbits))) = _
  exact completion_valid (State.accept_pend s _) hd

end Sys2Proof.Machine
end

