-- ==== Sys2Proof/Tests/Slice0.lean ====
section
/-! SUPPORT. The model's own tests, on the spec's vectors (95_test_vectors.md, named in each docstring), and
for every statement with hypotheses a state and operands that meet them. -/

open Sys2Proof Sys2Proof.Machine

namespace Sys2Proof.Tests

/-! ### Small states -/

/-- Reset with W = 64 and BASE = 0. -/
def quiet : State := State.resetOf { W := 64, base := 0 }

/-- Buffer words the host has written. -/
def written (ws : List Word) : Buffer := ws.map fun v => { val := v, written := true }

/-- N = 253 and STATE = 3 committed, every buffer word written. -/
def seeded : State :=
  { quiet with
    opbuf := written [0xFD, 0], matrix := written (List.replicate 32 0)
    modulus := 253, modValid := true, genState := 3, seeded := true }

/-- `quiet` with the first matrix rows written. -/
def withRows (ws : List Word) : State := { quiet with matrix := written ws }

/-- `s` with the completion of `w` as its next step. -/
def due (s : State) (w : Word) : State := { s with pend := some w, events := [.complete] }

/-- What a step leaves, seen through `f`; `none` if it stops. -/
def see {α : Type} (f : State → α) (o : Host.Outcome State Fault Refusal) : Option α :=
  match o with
  | .next t => some (f t)
  | .fault _ => none
  | .refused _ => none

/-! ### Well-formedness -/

theorem test_wf_next_bits_33 : (Instr.nextBits 33).wf = false := by decide

theorem test_wf_next_bits_255 : (Instr.nextBits 255).wf = false := by decide

theorem test_wf_rank_0 : (Instr.rank 0).wf = false := by decide

theorem test_wf_rank_33 : (Instr.rank 33).wf = false := by decide

theorem test_wf_edges :
    (Instr.nextBits 0).wf ∧ (Instr.nextBits 32).wf ∧ (Instr.rank 1).wf ∧ (Instr.rank 32).wf ∧
      (Instr.seedAbsorb 255).wf := by decide

/-! ### Decoding: words written out as OP, RSV, IMM (R80, R83) -/

theorem test_decode_nop : decode (0b00000000#8 ++ 0#16 ++ 0b00000000#8) = .valid .nop := by decide

theorem test_decode_load_modulus :
    decode (0b00000001#8 ++ 0#16 ++ 0b00000000#8) = .valid .loadModulus := by decide

theorem test_decode_seed_clear :
    decode (0b00000010#8 ++ 0#16 ++ 0b00000000#8) = .valid .seedClear := by decide

theorem test_decode_seed_absorb :
    decode (0b00000011#8 ++ 0#16 ++ 0b10000001#8) = .valid (.seedAbsorb 129) := by decide

theorem test_decode_seed_commit :
    decode (0b00000100#8 ++ 0#16 ++ 0b00000000#8) = .valid .seedCommit := by decide

theorem test_decode_next_bits :
    decode (0b00000101#8 ++ 0#16 ++ 0b00001101#8) = .valid (.nextBits 13) := by decide

theorem test_decode_rank :
    decode (0b00000110#8 ++ 0#16 ++ 0b00010001#8) = .valid (.rank 17) := by decide

/-- V-DC2 to V-DC14. -/
theorem test_decode_errors :
    decode 0x07000000 = .error .badOpcode ∧ decode 0xFF000000 = .error .badOpcode ∧
    decode 0x07000100 = .error .badOpcode ∧ decode 0x00000100 = .error .reservedBits ∧
    decode 0x00800000 = .error .reservedBits ∧ decode 0x00000001 = .error .reservedBits ∧
    decode 0x01000005 = .error .reservedBits ∧ decode 0x02000001 = .error .reservedBits ∧
    decode 0x04000001 = .error .reservedBits ∧ decode 0x05000021 = .error .badArg ∧
    decode 0x050000FF = .error .badArg ∧ decode 0x06000000 = .error .badArg ∧
    decode 0x06000021 = .error .badArg := by decide

/-- R87's syntax: the operand in decimal, and none for a command that takes none. -/
theorem test_assembly :
    (Instr.nextBits 8).assembly = "NEXT_BITS 8" ∧ Instr.seedCommit.assembly = "SEED_COMMIT" := by
  decide

theorem test_table_word :
    decodeTableWord 32 0x03000012 = some (.seedAbsorb 0x12) ∧ decodeTableWord 32 0x06000000 = none :=
  by decide

/-! ### Commands, each one step from a word placed for it -/

/-- V-DC1. -/
theorem test_nop : see State.statusWord (step (quiet.withFetchWord 32 0x00000000)) = some 0x2 := by
  decide

/-- V-LM5: word 1 has weight 2^32. -/
theorem test_load_modulus_word_order :
    see (fun t => (t.modulus, t.statusWord))
      (step (({ quiet with opbuf := written [0, 1] } : State).withFetchWord 32 0x01000000)) =
      some (4294967296, 0x12) := by decide

/-- V-LM6: a refused modulus leaves the earlier one and its seed. -/
theorem test_load_modulus_degenerate :
    see (fun t => (t.modulus, t.genState, t.statusWord))
      (step (({ seeded with opbuf := written [1, 0] } : State).withFetchWord 32 0x01000000)) =
      some (253, 3, 0x436) := by decide

/-- V-LM8 is a model fault; the command completes (log 7), its operand from the free value of word 1. -/
theorem test_load_modulus_unwritten :
    let s : State := { quiet with opbuf := (quiet.opbuf.store 0 0xFD) }
    s.opbufWords = [0xFD, Config.freeValue 1] ∧
      ∃ t, step (s.withFetchWord 32 0x01000000) = .next t ∧
        t.modelFault = some .unwrittenOpbuf := by
  refine ⟨rfl, _, rfl, ?_⟩
  split <;> rfl

/-- V-SD11. -/
theorem test_seed_clear :
    see (fun t => (t.seedAcc, t.genState, t.statusWord))
      (step (({ seeded with seedAcc := 0x12, seedNonempty := true } : State).withFetchWord 32
        0x02000000)) = some (0, 3, 0x32) := by decide

/-- R128's example: 256 mod 209. -/
theorem test_seed_absorb :
    see (fun t => (t.seedAcc, t.statusWord))
      (step (({ quiet with
          modulus := 209, modValid := true, seedAcc := 1, seedNonempty := true } :
        State).withFetchWord 32 0x03000000)) = some (47, 0x52) := by decide

/-- V-SD13. -/
theorem test_seed_absorb_no_modulus :
    see State.statusWord (step (quiet.withFetchWord 32 0x03000005)) = some 0x506 := by decide

/-- R131's example. -/
theorem test_seed_commit :
    see (fun t => (t.genState, t.seedAcc, t.statusWord))
      (step (({ quiet with
          modulus := 209, modValid := true, seedAcc := 47, seedNonempty := true } :
        State).withFetchWord 32 0x04000000)) = some (47, 0, 0x32) := by decide

/-- V-SD10: a second commit. -/
theorem test_seed_commit_empty :
    see (fun t => (t.genState, t.statusWord)) (step (seeded.withFetchWord 32 0x04000000)) =
      some (3, 0x736) := by decide

/-- V-NB3. -/
theorem test_next_bits :
    see (fun t => (t.bits, t.genState)) (step (seeded.withFetchWord 32 0x05000020)) =
      some (0xCA0D9CA0, 58) := by decide

/-- V-NB14. -/
theorem test_next_bits_33 :
    see (fun t => (t.bits, t.genState, t.statusWord))
      (step (({ seeded with genState := 234, bits := 0xCA } : State).withFetchWord 32 0x05000021)) =
      some (0xCA, 234, 0x336) := by decide

/-- V-RK6, with a row below d untouched. -/
theorem test_rank :
    see (fun t => (t.rankResult, t.matrix))
      (step ((withRows [0xA0000000, 0x60000000, 0xC0000000, 0x10000000, 0x12345678]).withFetchWord 32
        0x06000004)) =
      some (3, written [0x00000000, 0xC0000000, 0x60000000, 0x10000000, 0x12345678]) := by
  decide +kernel

/-- RANK 4 with MATRIX[3] unwritten (section 2.5) is a model fault; the command completes (log 7), and the
row is written. -/
theorem test_rank_unwritten :
    see (fun t => (t.done, (t.matrix.word 3).written, (t.matrix.word 4).written, t.draws, t.modelFault))
      (step (quiet.withFetchWord 32 0x06000004)) =
      some (true, true, false, 4, some .unwrittenMatrix) := rfl

/-- V-RK5: the low 28 bits of rows 0 to 3 are untouched. -/
theorem test_rank_low_bits :
    see (fun t => (t.rankResult, t.matrix))
      (step ((withRows (List.replicate 4 0xFFFFFFFF)).withFetchWord 32 0x06000004)) =
      some (1, written [0x0FFFFFFF, 0x0FFFFFFF, 0x0FFFFFFF, 0xFFFFFFFF]) := by
  decide +kernel

/-! ### The host port -/

/-- V-LC10 and V-LC9. -/
theorem test_reads :
    [0x0000, 0x0004, 0x001C, 0x1008, 0x0010].map
      (fun off => see State.resp (step { quiet with events := [.busRead 32 off] })) =
    [0x42425301, 0x00200002, 0, 0, 0].map (fun v => some (some (.data v))) := by decide

/-- V-LC8: a misaligned and a narrow access. -/
theorem test_bus_error :
    step { quiet with events := [.busRead 32 0x0002] } =
      .next { quiet with resp := some .busError } ∧
    step { quiet with events := [.busWrite 8 0x0008 1] } =
      .next { quiet with resp := some .busError } := ⟨rfl, rfl⟩

/-- V-LC2: a write to OPBUF[0] while busy. -/
theorem test_dropped_write :
    see (fun t => (t.statusWord, t.opbuf))
      (step { quiet with
        opbuf := written [0xFD, 0], pend := some 0x01000000
        events := [.busWrite 32 0x1000 0] }) = some (0x9, written [0xFD, 0]) := by decide

/-- V-LC5. -/
theorem test_status_write :
    see State.statusWord
      (step { quiet with
        done := true, err := true, errCode := 7, modValid := true
        events := [.busWrite 32 0x000C 0xFFFFFFFF] }) = some 0x714 := by decide

/-- V-LC6: enabling the interrupt while DONE = 1. -/
theorem test_irq_enable :
    see State.irq (step { quiet with done := true, events := [.busWrite 32 0x0008 1] }) = some true := by
  decide

/-- V-LC7, while a command is pending. -/
theorem test_soft_reset :
    step { seeded with pend := some 0x05000008, events := [.busWrite 32 0x0008 3] } =
      .next { quiet with resp := some .ok } := rfl

/-! ### Witnesses: encoding -/

theorem witness_decode_checks :
    decode (wordOf 255 65535 255) = .error .badOpcode ∧ decode (wordOf 7 0 0) = .error .badOpcode ∧
    decode (wordOf 6 65535 0) = .error .reservedBits ∧ decode (wordOf 4 0 255) = .error .reservedBits ∧
    decode (wordOf 5 0 33) = .error .badArg ∧ decode (wordOf 6 0 0) = .error .badArg ∧
    decode (wordOf 6 0 33) = .error .badArg ∧ decode (wordOf 5 0 0) = .valid (.nextBits 0) ∧
    decode (wordOf 6 0 1) = .valid (.rank 1) ∧ decode (wordOf 3 0 255) = .valid (.seedAbsorb 255) := by
  decide

theorem witness_encode_decode : decode 0x06000020 = .valid (.rank 32) := by decide

/-! ### Witnesses: lifecycle -/

theorem witness_step_runs_pending :
    (due seeded 0x05000020).pend = some 0x05000020 ∧ decode 0x05000020 = .valid (.nextBits 32) ∧
    (due seeded 0x05000020).events = [.complete] ∧
    ({ due seeded 0x05000020 with events := [] } : State).events = [] := by decide

/-- `quiet` with an illegal word to come and its completion after it. -/
def illegal (op rsv imm : Nat) : State :=
  { quiet with events := [.busWrite 32 0x0010 (wordOf op rsv imm), .complete] }

theorem witness_illegal_words :
    ∀ x ∈ [(7, 0, 0), (255, 65535, 255), (6, 1, 0), (4, 0, 1), (5, 0, 33), (6, 0, 0), (6, 0, 33)],
      (illegal x.1 x.2.1 x.2.2).pend = none ∧ x.1 < 256 ∧ x.2.1 < 65536 ∧ x.2.2 < 256 ∧
      (illegal x.1 x.2.1 x.2.2).events =
        [.busWrite 32 ((illegal x.1 x.2.1 x.2.2).params.base + 0x0010) (wordOf x.1 x.2.1 x.2.2),
          .complete] ∧
      (7 ≤ x.1 ∨
        (x.1 < 7 ∧ (x.2.1 ≠ 0 ∨ ((x.1 = 0 ∨ x.1 = 1 ∨ x.1 = 2 ∨ x.1 = 4) ∧ x.2.2 ≠ 0))) ∨
        (x.2.1 = 0 ∧ ((x.1 = 5 ∧ 33 ≤ x.2.2) ∨ (x.1 = 6 ∧ (x.2.2 = 0 ∨ 33 ≤ x.2.2))))) := by
  decide

theorem witness_idle_cmd_write :
    let s : State := { quiet with events := [.busWrite 32 0x0010 0xFFFFFFFF] }
    s.pend = none ∧ s.events = [.busWrite 32 (s.params.base + 0x0010) 0xFFFFFFFF] := by decide

/-- `seeded` with NOP pending and a write of 1 at an offset to come. -/
def busyWrite (off : Nat) : State :=
  { seeded with pend := some 0, events := [.busWrite 32 off 1] }

theorem witness_busy_writes :
    (∀ off ∈ [0x0010, 0x1000, 0x1004, 0x0100, 0x017C, 0x0008, 0x000C, 0x0180, 0x1008],
      (busyWrite off).params.Legal ∧ (busyWrite off).pend = some 0 ∧
      (busyWrite off).events = [.busWrite 32 ((busyWrite off).params.base + off) 1]) ∧
    (busyWrite 0x1004).params.nw = 2 := by decide

theorem witness_failed_command :
    CompletesAny (due quiet 0x05000008) ∧
    ∃ t, step (due quiet 0x05000008) = .next t ∧ t.err = true ∧ t.errCode = 5 :=
  ⟨⟨by decide, by decide⟩, _, rfl, by decide, by decide⟩

/-- One state and word for each code of R182, and the code. -/
def priorityCases : List (State × Word × BitVec 4) :=
  [(quiet, 0xFFFFFFFF, 1), (quiet, 0x06000100, 2), (quiet, 0x04000001, 2), (quiet, 0x05000021, 3),
    (quiet, 0x06000000, 3), ({ quiet with opbuf := written [1, 0] }, 0x01000000, 4),
    (quiet, 0x03000000, 5), (quiet, 0x04000000, 5), (quiet, 0x05000000, 5),
    ({ quiet with modulus := 253, modValid := true }, 0x05000000, 6),
    ({ quiet with modulus := 253, modValid := true }, 0x04000000, 7), (seeded, 0x05000020, 0),
    (withRows [0x80000000], 0x06000001, 0)]

theorem witness_error_priority :
    ∀ x ∈ priorityCases, (nextEvent (due x.1 x.2.1)).1 = .complete ∧
      (due x.1 x.2.1).pend = some x.2.1 ∧ see State.errCode (step (due x.1 x.2.1)) = some x.2.2 := by
  decide

theorem witness_error_priority_operands :
    ∀ j < quiet.params.nw,
      ((due { quiet with opbuf := written [1, 0] } 0x01000000).opbuf.word j).written = true := by
  decide

/-- The three kinds of step of R110's model faults: both faults, and a completion that is none. -/
theorem witness_model_faults :
    Completes .loadModulus (due quiet 0x01000000) ∧ (quiet.opbuf.word 1).written = false ∧
    Completes (.rank 32) (due quiet 0x06000020) ∧ (quiet.matrix.word 31).written = false ∧
    CompletesAny (due seeded 0x05000020) ∧
    see State.modelFault (step (due seeded 0x05000020)) = some none :=
  ⟨⟨by decide, _, rfl, by decide⟩, by decide, ⟨by decide, _, rfl, by decide⟩, by decide,
    ⟨by decide, by decide⟩, by decide⟩

theorem witness_pending_command :
    ({ seeded with pend := some 0x06000020, events := [.busRead 32 0x000C, .complete] } : State).pend =
      some 0x06000020 := by decide

/-- `seeded` with RANK 32 pending and a read to come. -/
def busyRead : State := { seeded with pend := some 0x06000020, events := [.busRead 32 0x000C] }

theorem witness_operands_frozen :
    busyRead.pend ≠ none ∧ (∃ t, step busyRead = .next t) ∧ ¬ CompletesAny busyRead ∧
      ¬ Resets busyRead := by
  refine ⟨by decide, ⟨_, rfl⟩, ?_, ?_⟩
  · simp [CompletesAny, nextEvent, busyRead]
  · simp [Resets, HostWrites, nextEvent, busyRead]

/-! ### Witnesses: commands -/

theorem witness_load_modulus :
    (∀ j < 2, (({ quiet with opbuf := written [1, 0] } : State).opbuf.word j).written = true) ∧
    ({ quiet with opbuf := written [1, 0] } : State).opbufValue = 1 ∧
    ({ quiet with opbuf := written [2, 0] } : State).opbufValue = 2 ∧
    ({ quiet with opbuf := written [0xFFFFFFFF, 0xFFFFFFFF] } : State).opbufValue = 2 ^ 64 - 1 ∧
    quiet.params.nw = 2 := by decide

theorem witness_load_modulus_sum :
    opbufSum { quiet with opbuf := written [1, 0] } = 1 ∧
    opbufSum { quiet with opbuf := written [2, 0] } = 2 := by decide

/-- Word 1 unwritten, whatever its free value is. -/
theorem witness_load_modulus_unwritten :
    let s : State := { quiet with opbuf := quiet.opbuf.store 0 1 }
    (∃ j < s.params.nw, (s.opbuf.word j).written = false) ∧
    (∀ j < s.params.nw, [1, Config.freeValue 1].getD j 0 =
      if (s.opbuf.word j).written then (s.opbuf.word j).val else Config.freeValue (s.draws + j)) := by
  refine ⟨⟨1, by decide, by decide⟩, fun j hj => ?_⟩
  have hj : j < 2 := hj
  interval_cases j <;> rfl

theorem witness_seed_commands :
    quiet.modValid = false ∧ seeded.modValid = true ∧ seeded.seedNonempty = false ∧
    ({ seeded with seedNonempty := true } : State).seedNonempty = true := by decide

theorem witness_next_bits :
    (32 : Byte).toNat ≤ 32 ∧ (0 : Byte).toNat ≤ 32 ∧ quiet.modValid = false ∧
    ({ quiet with modValid := true } : State).seeded = false ∧ seeded.modValid = true ∧
    seeded.seeded = true := by decide

theorem witness_rows_written :
    RowsWritten seeded (32 : Byte).toNat ∧ RowsWritten (withRows [0x80000000]) (1 : Byte).toNat := by
  unfold RowsWritten
  decide

theorem witness_rank_unwritten :
    (32 : Byte).toNat ≤ 32 ∧ 31 < (32 : Byte).toNat ∧ (quiet.matrix.word 31).written = false ∧
    quiet.matrix.length = 32 := by decide

/-- The matrix RANK 1 runs on from reset: a free value in row 0, the other rows as they were. -/
theorem witness_rank_unwritten_matrix :
    let m : Buffer := quiet.matrix.store 0 (Config.freeValue 0)
    m.length = 32 ∧ m.word 0 = { val := Config.freeValue (quiet.draws + 0), written := true } ∧
      ∀ r, r ≠ 0 → m.word r = quiet.matrix.word r :=
  ⟨rfl, rfl, fun _ h => by simp [Buffer.word, Buffer.store, List.getElem?_set_ne (Ne.symm h)]⟩

/-! ### Witnesses: the BBS unit -/

theorem witness_seed_sequence : seeded.modValid = true ∧ seeded.seedAcc = 0 ∧ [0xFF#8, 0xFF#8] ≠ [] := by
  decide

/-- V-SD3's value: 65535. -/
theorem witness_seed_sum : seedSum [0xFF, 0xFF] = 65535 := by decide

theorem witness_next_bits_splits :
    seeded.modValid = true ∧ seeded.seeded = true ∧
    ∃ t u, exec (.nextBits (BitVec.ofNat 8 3)) seeded = .next t ∧
      exec (.nextBits (BitVec.ofNat 8 29)) t = .next u :=
  ⟨by decide, by decide, _, _, rfl, rfl⟩

theorem witness_fixed_states :
    let s : State := { seeded with genState := 0 }
    let t : State := { seeded with modulus := 2, genState := 1 }
    s.modValid = true ∧ s.seeded = true ∧ 2 ≤ s.modulus ∧ s.genState = 0 ∧
    t.modValid = true ∧ t.seeded = true ∧ 2 ≤ t.modulus ∧ t.genState = 1 := by decide

theorem witness_independence :
    (∃ t, exec .seedClear seeded = .next t) ∧ (∃ t, exec (.seedAbsorb 255) seeded = .next t) ∧
    ∃ t, exec (.nextBits 32) seeded = .next t :=
  ⟨⟨_, rfl⟩, ⟨_, rfl⟩, ⟨_, rfl⟩⟩

/-- Two blocks that differ in everything the generator does not read. -/
theorem witness_determinism :
    let s' : State := { seeded with irqEn := true, rankResult := 5, matrix := [], draws := 9 }
    seeded.modulus = s'.modulus ∧ seeded.opbuf = s'.opbuf ∧ seeded ≠ s' ∧
    (∀ j < seeded.params.nw, (seeded.opbuf.word j).written = true) ∧
    (∃ t, ExecAll [.nextBits 8, .loadModulus] seeded t) ∧
    ∃ t, ExecAll [.nextBits 8, .loadModulus] s' t :=
  ⟨rfl, rfl, by decide, by decide, ⟨_, .cons rfl (.cons rfl (.nil _))⟩,
    ⟨_, .cons rfl (.cons rfl (.nil _))⟩⟩

/-! ### Witnesses: the rank unit -/

/-- V-RK8's matrix: at i = 0 the pivot row of the forward pass is row 1, the nearer candidate. -/
theorem witness_forward_pass :
    let A : List Word := [0x40000000, 0x80000000, 0xC0000000]
    A.length = 3 ∧ Gf2.entry A 1 0 = true ∧ (∀ q < 1, Gf2.entry A q 0 = false) ∧
    (∀ q < 3, Gf2.entry A q 2 = false) := by decide

/-- At i = 2 the pivot row of the backward pass is row 1, the nearer candidate; column 0 has none. -/
theorem witness_backward_pass :
    let A : List Word := [0x20000000, 0x60000000, 0x40000000]
    A.length = 3 ∧ Gf2.entry A 1 2 = true ∧ Gf2.entry A 2 2 = false ∧
    (∀ q < 3, Gf2.entry A q 0 = false) := by decide

/-- The identity of side 2, and the zero matrix of side 32. -/
theorem witness_identity_and_zero :
    let s : State := withRows [0x80000000, 0x40000000]
    (∀ r < 2, (s.matrix.word r).written = true) ∧
    (∀ r < 2, ∀ c < 2, matrixEntry s r c = decide (r = c)) ∧
    ∀ r < 32, ∀ c < 32, matrixEntry seeded r c = false := by decide

theorem witness_row_order :
    let s : State := withRows [0x80000000, 0x40000000]
    let s' : State := withRows [0x40000000, 0x80000000]
    (∀ r < 2, (s'.matrix.word r).written = true) ∧
    ∀ r : Fin 2, ∀ c < 2, matrixEntry s' r c = matrixEntry s (Equiv.swap (0 : Fin 2) 1 r) c := by decide

/-! ### Witnesses: the host port -/

/-- `seeded` with a read, or a write of `v`, at an offset to come. -/
def reading (off : Nat) : State := { seeded with events := [.busRead 32 off] }

def writing (off : Nat) (v : Word) : State := { seeded with events := [.busWrite 32 off v] }

theorem witness_unsupported_access :
    (reading 0x0002).events = [.busRead 32 0x0002] ∧ (reading 0x2000).events = [.busRead 32 0x2000] ∧
    ({ seeded with events := [.busWrite 64 0 1] } : State).events = [.busWrite 64 0 1] ∧
    ((0x0002 - seeded.params.base) % 4 ≠ 0) ∧ seeded.params.base + 0x2000 ≤ 0x2000 ∧
    0x1FFF < ({ seeded with params := { W := 64, base := 0x2000 } } : State).params.base := by decide

/-- Each access the bus statements are about, at the edges of their ranges. -/
theorem witness_accesses :
    ∀ off ∈ [0x0000, 0x0004, 0x0008, 0x000C, 0x0010, 0x0014, 0x0018, 0x001C, 0x00FC, 0x0100, 0x017C,
      0x0180, 0x0FFC, 0x1000, 0x1004, 0x1008, 0x1FFC],
      (reading off).events = [.busRead 32 ((reading off).params.base + off)] ∧
      (writing off 3).events = [.busWrite 32 ((writing off 3).params.base + off) 3] ∧
      (reading off).params.Legal ∧ off % 4 = 0 := by decide

theorem witness_ctrl : BitVec.getLsbD (1 : Word) 1 = false ∧ BitVec.getLsbD (3 : Word) 1 = true := by
  decide

/-- A NEXT_BITS word, a RANK word and neither pending; a written and an unwritten buffer word. -/
theorem witness_reads_of_results :
    (0x05000008 : Word).extractLsb' 24 8 = 5#8 ∧ (0x06000020 : Word).extractLsb' 24 8 = 6#8 ∧
    seeded.pend = none ∧ (seeded.matrix.word 31).written = true ∧
    (quiet.matrix.word 31).written = false ∧ (seeded.opbuf.word 1).written = true ∧
    (quiet.opbuf.word 1).written = false := by decide

theorem witness_idle_buffer_writes :
    seeded.params.Legal ∧ seeded.opbuf.length = seeded.params.nw ∧ seeded.matrix.length = 32 ∧
    seeded.pend = none ∧ (writing 0x017C 1).events = [.busWrite 32 0x017C 1] := by decide

/-- A read that is no draw, and one of an unwritten row, which is. -/
theorem witness_hidden_registers :
    (reading 0x0014).events = [.busRead 32 0x0014] ∧ Event.busRead 32 0x0014 ≠ .complete ∧
    see State.draws (step (reading 0x0014)) = some 0 ∧
    see State.draws (step { quiet with events := [.busRead 32 0x0100] }) = some 1 := by decide

/-! ### Witnesses: interrupt and reset -/

theorem witness_interrupt_completion :
    ({ due seeded 0 with irqEn := true } : State).irqEn = true ∧
    CompletesAny { due seeded 0 with irqEn := true } ∧
    ∃ t, step { due seeded 0 with irqEn := true } = .next t :=
  ⟨by decide, ⟨by decide, by decide⟩, _, rfl⟩

theorem witness_interrupt_overrun :
    HostWrites .cmd 1 { busyWrite 0x0010 with irqEn := true } ∧
    ({ busyWrite 0x0010 with irqEn := true } : State).pend ≠ none ∧
    ∃ t, step { busyWrite 0x0010 with irqEn := true } = .next t :=
  ⟨⟨0x0010, by decide, by decide⟩, by decide, _, rfl⟩

/-- The last MATRIX row and the last OPBUF word at W = 64. -/
theorem witness_interrupt_overrun_buffers :
    HostWrites (.matrix 31) 1 { busyWrite 0x017C with irqEn := true } ∧
    HostWrites (.opbuf 1) 1 { busyWrite 0x1004 with irqEn := true } :=
  ⟨⟨0x017C, by decide, by decide⟩, 0x1004, by decide, by decide⟩

theorem witness_interrupt_clear :
    HostWrites .status 0xA (writing 0x000C 0xA) ∧ BitVec.getLsbD (0xA : Word) 1 = true ∧
    BitVec.getLsbD (0xA : Word) 3 = true ∧ ∃ t, step (writing 0x000C 0xA) = .next t :=
  ⟨⟨0x000C, by decide, by decide⟩, by decide, by decide, _, rfl⟩

theorem witness_resets :
    Resets { seeded with pend := some 0x06000020, events := [.resetInput] } ∧
    Resets (writing 0x0008 3) ∧ ∃ t, step (writing 0x0008 3) = .next t :=
  ⟨.inl rfl, .inr ⟨3, by decide, 0x0008, by decide, by decide⟩, _, rfl⟩

/-- Both kinds of state right after a reset. -/
theorem witness_after_reset :
    AfterReset quiet ∧ ∃ t, AfterReset t ∧ step (writing 0x0008 3) = .next t :=
  ⟨.inl ⟨_, rfl⟩, _, .inr ⟨_, witness_resets.2.1, rfl⟩, rfl⟩

theorem witness_next_bits_after_reset : (32 : Byte).toNat ≤ 32 ∧ quiet.modValid = false := by decide

/-- The step that ends MOD_VALID = 0. -/
theorem witness_modulus_loaded :
    let s : State := due { quiet with opbuf := written [0xFD, 0] } 0x01000000
    s.modValid = false ∧ see State.modValid (step s) = some true := by decide

/-! ### Witnesses: invariants and whole-machine rules -/

theorem witness_invariants :
    (due seeded 0x05000020).RuleInv ∧ (due seeded 0x05000020).Shape ∧ (due seeded 0x05000020).Widths ∧
    (due seeded 0x05000020).Results := by decide

theorem witness_invariants_step : ∃ t, step (due seeded 0x05000020) = .next t ∧ t.genState = 58 :=
  ⟨_, rfl, by decide⟩

theorem witness_legal_params :
    Params.Legal { W := 32, base := 0 } ∧ Params.Legal { W := 32768, base := 0x2000 } := by decide

/-- One step per writer of R49: a register of each kind changes. -/
theorem witness_writers :
    see State.irqEn (step (writing 0x0008 1)) = some true ∧
    see State.pend (step (writing 0x0010 0)) = some (some 0) ∧
    see (fun t => t.matrix.word 31) (step (writing 0x017C 5)) = some { val := 5, written := true } ∧
    see State.overrun (step (busyWrite 0x0010)) = some true := by decide

theorem witness_written_buffers :
    (∀ j < seeded.params.nw, (seeded.opbuf.word j).written = true) ∧
    (writing 0x0010 0x06000020).events = [.busWrite 32 0x0010 0x06000020] ∧
    selectReg seeded.params 32 0x0010 ≠ some .ctrl := by decide

theorem witness_bit_buffer : 31 < 32 ∧ bufferBit [0x80] 0 = true := by decide

end Sys2Proof.Tests
end

/-! PROOF. The statements of 00_scope.md: the seed sequence and its value (R13, R128-R133), the rows
of a bit buffer (R214), and the invariants at reset (R45, R48). -/

namespace Sys2Proof

open Machine

/-! ### Running a list of commands -/

theorem ExecAll.append {is js : List Instr} {s t u : State} (h : ExecAll is s t)
    (hj : ExecAll js t u) : ExecAll (is ++ js) s u := by
  induction h with
  | nil => exact hj
  | cons hi _ ih => exact .cons hi (ih hj)

theorem ExecAll.single {i : Instr} {s t : State} (h : exec i s = .next t) : ExecAll [i] s t :=
  .cons h (.nil t)

/-! ### The seed value (R13) -/

theorem seedSum_nil : seedSum [] = 0 := rfl

/-- The first byte is the most significant. -/
theorem seedSum_cons (b : Byte) (bs : List Byte) :
    seedSum (b :: bs) = b.toNat * 256 ^ bs.length + seedSum bs := by
  unfold seedSum
  rw [List.length_cons, Finset.sum_range_succ', Nat.add_comm]
  congr 1
  refine Finset.sum_congr rfl fun i _ => ?_
  rw [List.getD_cons_succ, Nat.add_sub_cancel, Nat.sub_sub, Nat.add_comm 1 i]

/-- Horner's rule: absorbing the first byte into `a` before the rest is what R13's sum says. -/
theorem absorbed_seedSum_cons (a : Nat) (b : Byte) (bs : List Byte) :
    (a * 256 + b.toNat) * 256 ^ bs.length + seedSum bs =
      a * 256 ^ (b :: bs).length + seedSum (b :: bs) := by
  rw [seedSum_cons, List.length_cons]
  ring

/-! ### Seeding -/

/-- The state SEED_CLEAR leaves (R125). -/
def Machine.State.seedCleared (s : State) : State :=
  ({ s with seedAcc := 0, seedNonempty := false } : State).succeed

/-- The state a successful SEED_COMMIT leaves (R131). -/
def Machine.State.seedCommitted (s : State) : State :=
  ({ s with
      genState := s.seedAcc, seeded := true, seedAcc := 0, seedNonempty := false } : State).succeed

/-- The state a successful SEED_ABSORB leaves (R128), where `a` is the seed so far before its
reduction modulo N. -/
def Machine.State.absorbed (a : Nat) (s : State) : State :=
  ({ s with seedAcc := a % s.modulus, seedNonempty := true } : State).succeed

@[simp] theorem Machine.State.seedCleared_seedAcc (s : State) : s.seedCleared.seedAcc = 0 := rfl

@[simp] theorem Machine.State.seedCleared_modValid (s : State) :
    s.seedCleared.modValid = s.modValid := rfl

@[simp] theorem Machine.State.absorbed_seedAcc (a : Nat) (s : State) :
    (s.absorbed a).seedAcc = a % s.modulus := rfl

@[simp] theorem Machine.State.absorbed_seedNonempty (a : Nat) (s : State) :
    (s.absorbed a).seedNonempty = true := rfl

@[simp] theorem Machine.State.absorbed_modulus (a : Nat) (s : State) :
    (s.absorbed a).modulus = s.modulus := rfl

@[simp] theorem Machine.State.absorbed_modValid (a : Nat) (s : State) :
    (s.absorbed a).modValid = s.modValid := rfl

/-- Only the last absorption shows. -/
@[simp] theorem Machine.State.absorbed_absorbed (a a' : Nat) (s : State) :
    (s.absorbed a).absorbed a' = s.absorbed a' := rfl

/-- Reducing before a byte is absorbed does not change the result (R129). -/
theorem Machine.State.absorbed_mod (a b : Nat) (s : State) :
    s.absorbed (a % s.modulus * 256 + b) = s.absorbed (a * 256 + b) := by
  have h : (a % s.modulus * 256 + b) % s.modulus = (a * 256 + b) % s.modulus :=
    ((Nat.mod_modEq a s.modulus).mul_right 256).add_right b
  unfold State.absorbed
  rw [h]

theorem exec_seedClear (s : State) : exec .seedClear s = .next s.seedCleared := rfl

theorem exec_seedAbsorb {s : State} (b : Byte) (h : s.modValid = true) :
    exec (.seedAbsorb b) s = .next (s.absorbed (s.seedAcc * 256 + b.toNat)) :=
  if_pos h

theorem exec_seedCommit {s : State} (hm : s.modValid = true) (hn : s.seedNonempty = true) :
    exec .seedCommit s = .next s.seedCommitted :=
  (if_pos hm).trans (if_pos hn)

/-- More bytes absorbed after the seed so far was `a`. -/
theorem execAll_seedAbsorb_absorbed {s : State} (hm : s.modValid = true) (bytes : List Byte)
    (a : Nat) :
    ExecAll (bytes.map Instr.seedAbsorb) (s.absorbed a)
      (s.absorbed (a * 256 ^ bytes.length + seedSum bytes)) := by
  induction bytes generalizing a with
  | nil =>
    rw [seedSum_nil, List.length_nil, Nat.pow_zero, Nat.mul_one, Nat.add_zero]
    exact .nil _
  | cons b bs ih =>
    have hstep : exec (.seedAbsorb b) (s.absorbed a) = .next (s.absorbed (a * 256 + b.toNat)) := by
      have hm' : (s.absorbed a).modValid = true := by rw [State.absorbed_modValid, hm]
      rw [exec_seedAbsorb b hm', State.absorbed_seedAcc, State.absorbed_absorbed,
        State.absorbed_mod]
    rw [← absorbed_seedSum_cons]
    exact .cons hstep (ih _)

/-- Bytes absorbed from any accumulator (R129). -/
theorem execAll_seedAbsorb {s : State} (hm : s.modValid = true) {bytes : List Byte}
    (hne : bytes ≠ []) :
    ExecAll (bytes.map Instr.seedAbsorb) s
      (s.absorbed (s.seedAcc * 256 ^ bytes.length + seedSum bytes)) := by
  cases bytes with
  | nil => exact absurd rfl hne
  | cons b bs =>
    rw [← absorbed_seedSum_cons]
    exact .cons (exec_seedAbsorb b hm) (execAll_seedAbsorb_absorbed hm bs _)

/-- From an empty accumulator the absorbed bytes are the seed value. -/
theorem execAll_seedAbsorb_of_seedAcc_eq_zero {s : State} (hm : s.modValid = true)
    (h0 : s.seedAcc = 0) {bytes : List Byte} (hne : bytes ≠ []) :
    ExecAll (bytes.map Instr.seedAbsorb) s (s.absorbed (seedSum bytes)) := by
  simpa [h0] using execAll_seedAbsorb hm hne

/-! ### The rows of a bit buffer (R214) -/

/-- Column c of a row is in byte `c / 8` of its four, most significant bit first. -/
theorem bufferRow_getLsbD (B : List Byte) (k r : Nat) {c : Nat} (hc : c < 32) :
    (bufferRow B k r).getLsbD (31 - c) =
      (B.getD (128 * k + 4 * r + c / 8) 0).getLsbD (7 - c % 8) := by
  have hq : c / 8 = 0 ∨ c / 8 = 1 ∨ c / 8 = 2 ∨ c / 8 = 3 := by omega
  unfold bufferRow
  rw [BitVec.getLsbD_append, BitVec.getLsbD_append, BitVec.getLsbD_append]
  obtain h | h | h | h := hq <;> rw [h]
  · rw [if_neg (by omega), if_neg (by omega), if_neg (by omega)]
    congr 1; omega
  · rw [if_neg (by omega), if_neg (by omega), if_pos (by omega)]
    congr 1; omega
  · rw [if_neg (by omega), if_pos (by omega)]
    congr 1; omega
  · rw [if_pos (by omega)]
    congr 1; omega

/-! ### The reset state (R48) -/

section Reset

variable (p : Params)

theorem Machine.State.resetOf_ruleInv : (State.resetOf p).RuleInv := by
  simp [State.RuleInv, State.busy]

theorem Machine.State.resetOf_shape (h : p.Legal) : (State.resetOf p).Shape :=
  ⟨h, reset_buffers_wf p⟩

theorem Machine.State.resetOf_widths : (State.resetOf p).Widths :=
  ⟨Nat.two_pow_pos _, Nat.two_pow_pos _, Nat.two_pow_pos _⟩

theorem Machine.State.resetOf_results : (State.resetOf p).Results := by
  simp [State.Results]

end Reset

/-! ### The statements -/

/-- Settles O22: SEED_CLEAR empties the accumulator, the absorbed bytes are the seed value, and
SEED_COMMIT moves it to STATE. -/
theorem seedSequenceSetsState : Obligations.SeedSequenceSetsState := by
  intro s bytes hm hne
  have hclear : exec .seedClear s = .next s.seedCleared := exec_seedClear s
  have habsorb : ExecAll (bytes.map Instr.seedAbsorb) s.seedCleared
      (s.seedCleared.absorbed (seedSum bytes)) :=
    execAll_seedAbsorb_of_seedAcc_eq_zero (by simp [hm]) (by simp) hne
  have hcommit : exec .seedCommit (s.seedCleared.absorbed (seedSum bytes)) =
      .next (s.seedCleared.absorbed (seedSum bytes)).seedCommitted :=
    exec_seedCommit (by simp [hm]) (by simp)
  exact .cons hclear (habsorb.append (.single hcommit))

/-- Settles O23: no byte leaves the accumulator at 0, and some bytes leave their seed value. -/
theorem absorbedBytesAreTheSeedValue : Obligations.AbsorbedBytesAreTheSeedValue := by
  intro s bytes hm h0
  by_cases hne : bytes = []
  · subst hne
    exact ⟨s, .nil s, rfl, by rw [h0, seedSum_nil, Nat.zero_mod]⟩
  · exact ⟨s.absorbed (seedSum bytes), execAll_seedAbsorb_of_seedAcc_eq_zero hm h0 hne,
      State.absorbed_modulus _ s, State.absorbed_seedAcc _ s⟩

/-- Settles O58: buffer bit 1024k + 32r + c is bit `7 - c % 8` of byte 128k + 4r + c / 8. -/
theorem bitBufferRowsHoldTheBufferBits : Obligations.BitBufferRowsHoldTheBufferBits := by
  intro B k r c _ hc
  have hbyte : (1024 * k + 32 * r + c) / 8 = 128 * k + 4 * r + c / 8 := by omega
  have hbit : (1024 * k + 32 * r + c) % 8 = c % 8 := by omega
  rw [bufferRow_getLsbD B k r hc, bufferBit, hbyte, hbit]

/-- Settles O53: each kind of invariant holds at reset, under the parameters of
`State.reset` too. -/
theorem resetEstablishesTheInvariants : Obligations.ResetEstablishesTheInvariants :=
  ⟨fun p h => ⟨State.resetOf_ruleInv p, State.resetOf_shape p h, State.resetOf_widths p,
    State.resetOf_results p⟩, Config.params, by decide, rfl⟩

end Sys2Proof

/-! PROOF. The statements of 10_state.md: the registers as the host port shows them (R20-R39, R48-R52),
commands on unwritten operands (R50), and what every step keeps (R45, R49). -/

namespace Sys2Proof

open Machine

/-! ### What one step can do (R110) -/

/-- `s` with the next event taken off its schedule: the state a step performs the event on. -/
abbrev Machine.State.popped (s : State) : State := { s with events := (nextEvent s).2 }

/-- What one step leaves, by what the step is. The schedule loses its first event in every case. -/
inductive StepTo (s : State) : State → Prop
  /-- A read, a refused access, a write that writes nothing, or the engine while idle. -/
  | quiet (r : Option Response) (n : Nat) (h : ¬ CompletesAny s) :
    StepTo s { s with events := (nextEvent s).2, resp := r, draws := n }
  /-- The reset input, or a soft reset. -/
  | reset (r : Option Response) (h : Resets s) :
    StepTo s { s.performReset with events := (nextEvent s).2, resp := r }
  /-- A CTRL write that is no reset. -/
  | setIrqEn (v : Word) (h : HostWrites .ctrl v s) :
    StepTo s { s with
      events := (nextEvent s).2, irqEn := v.getLsbD 0, resp := some .ok }
  /-- A STATUS write. -/
  | clearStatus (v : Word) (h : HostWrites .status v s) :
    StepTo s { s.clearStatus v with events := (nextEvent s).2, resp := some .ok }
  /-- A CMD write while idle. -/
  | accept (v : Word) (hp : s.pend = none) (h : HostWrites .cmd v s) :
    StepTo s { s.accept v with events := (nextEvent s).2, resp := some .ok }
  /-- A write dropped while busy. -/
  | drop (v : Word) (hp : s.pend ≠ none)
    (h : HostWrites .cmd v s ∨ (∃ r, HostWrites (.matrix r) v s) ∨ ∃ j, HostWrites (.opbuf j) v s) :
    StepTo s { s.dropWrite with events := (nextEvent s).2, resp := some .ok }
  /-- A MATRIX write while idle. -/
  | storeRow (r : Nat) (v : Word) (hp : s.pend = none) (h : HostWrites (.matrix r) v s) :
    StepTo s { s with
      events := (nextEvent s).2, matrix := s.matrix.store r v, resp := some .ok }
  /-- An OPBUF write while idle. -/
  | storeWord (j : Nat) (v : Word) (hp : s.pend = none) (h : HostWrites (.opbuf j) v s) :
    StepTo s { s with
      events := (nextEvent s).2, opbuf := s.opbuf.store j v, resp := some .ok }
  /-- The completion of a word that does not decode. -/
  | error (w : Word) (c : ErrorCode) (h : CompletesAny s) (hw : s.pend = some w)
    (hd : decode w = .error c) :
    StepTo s { s.fail c with events := (nextEvent s).2 }
  /-- The completion of a command. -/
  | command (i : Instr) (t : State) (h : Completes i s)
    (he : exec i s.popped = .next t) : StepTo s t

theorem Completes.completesAny {i : Instr} {s : State} (h : Completes i s) : CompletesAny s := by
  obtain ⟨he, w, hw, -⟩ := h
  exact ⟨he, by simp [hw]⟩

theorem HostWrites.not_completesAny {r : Reg} {v : Word} {s : State} (h : HostWrites r v s) :
    ¬ CompletesAny s := by
  obtain ⟨addr, he, -⟩ := h
  simp [CompletesAny, he]

theorem Resets.not_completesAny {s : State} (h : Resets s) : ¬ CompletesAny s := by
  obtain he | ⟨v, -, hw⟩ := h
  · simp [CompletesAny, he]
  · exact hw.not_completesAny

/-- A host write that is taken, by the register it selects. -/
theorem stepTo_writeReg {s : State} {r : Reg} {v : Word} (h : HostWrites r v s) :
    StepTo s ((s.popped.writeReg v r).respond .ok) := by
  obtain hw | ⟨rfl, hv, hw⟩ | ⟨rfl, -, hw⟩ | ⟨rfl, hw⟩ | ⟨rfl, hp, hw⟩ | ⟨hp, hr, hw⟩ |
      ⟨hp, k, rfl, hw⟩ | ⟨hp, j, rfl, hw⟩ :=
    State.writeReg_cases v s.popped r <;> rw [hw]
  · exact .quiet _ _ h.not_completesAny
  · exact .reset _ (.inr ⟨v, hv, h⟩)
  · exact .setIrqEn v h
  · exact .clearStatus v h
  · exact .accept v hp h
  · refine .drop v hp ?_
    obtain rfl | ⟨k, rfl⟩ | ⟨j, rfl⟩ := hr
    · exact .inl h
    · exact .inr (.inl ⟨k, h⟩)
    · exact .inr (.inr ⟨j, h⟩)
  · exact .storeRow k v hp h
  · exact .storeWord j v hp h

/-- An access selects a register only if it is 32 bits wide (R62). -/
theorem width_of_selectReg {p : Params} {width addr : Nat} {r : Reg}
    (h : selectReg p width addr = some r) : width = 32 := by
  unfold selectReg at h
  split at h
  · next hw => exact hw.1
  · cases h

/-- Every step is one of the kinds of `StepTo`. -/
theorem stepTo_of_step {s t : State} (h : step s = .next t) : StepTo s t := by
  obtain ⟨width, addr, he, rfl⟩ | ⟨width, addr, v, he, rfl⟩ | ⟨he, hc⟩ | ⟨he, rfl⟩ := step_next h
  · obtain ⟨r, n, hr⟩ := State.busRead_frame width addr s.popped
    rw [hr]
    exact .quiet _ _ (by simp [CompletesAny, he])
  · unfold State.busWrite
    cases hs : selectReg s.params width addr with
    | none => exact .quiet _ _ (by simp [CompletesAny, he])
    | some r =>
      obtain rfl := width_of_selectReg hs
      exact stepTo_writeReg ⟨addr, he, hs⟩
  · obtain ⟨hp, rfl⟩ | ⟨w, c, hw, hd, rfl⟩ | ⟨w, i, hw, hd, hx⟩ := completion_next hc
    · exact .quiet _ _ fun hc => hc.2 hp
    · have hp : s.pend = some w := hw
      exact .error w c ⟨he, by simp [hp]⟩ hw hd
    · exact .command i t ⟨he, w, hw, hd⟩ hx
  · exact .reset _ (.inl he)

/-! ### What a command writes (R49) -/

/-- A command that changes one of these pieces of state is one of the commands R49 names for it. -/
theorem exec_writers {i : Instr} {s t : State} (h : exec i s = .next t) :
    (t.modulus ≠ s.modulus ∨ t.modValid ≠ s.modValid → i = .loadModulus) ∧
    (t.genState ≠ s.genState ∨ t.seeded ≠ s.seeded →
      i = .loadModulus ∨ i = .seedCommit ∨ ∃ c, i = .nextBits c) ∧
    (t.seedAcc ≠ s.seedAcc ∨ t.seedNonempty ≠ s.seedNonempty →
      i = .loadModulus ∨ i = .seedClear ∨ (∃ b, i = .seedAbsorb b) ∨ i = .seedCommit) ∧
    (t.bits ≠ s.bits → ∃ c, i = .nextBits c) ∧
    (t.rankResult ≠ s.rankResult → ∃ d, i = .rank d) ∧
    (t.matrix ≠ s.matrix → ∃ d, i = .rank d) := by
  cases i with
  | nop => obtain rfl := execNop_next h; simp
  | loadModulus => obtain ⟨-, rfl⟩ | ⟨-, rfl⟩ := execLoadModulus_next h <;> simp
  | seedClear => obtain rfl := execSeedClear_next h; simp
  | seedAbsorb b => obtain ⟨-, rfl⟩ | ⟨-, rfl⟩ := execSeedAbsorb_next h <;> simp
  | seedCommit =>
    obtain ⟨-, -, rfl⟩ | ⟨-, -, rfl⟩ | ⟨-, rfl⟩ := execSeedCommit_next h <;> simp
  | nextBits c =>
    obtain ⟨-, rfl⟩ | ⟨-, -, -, rfl⟩ | ⟨-, -, -, rfl⟩ | ⟨-, -, rfl⟩ := execNextBits_next h <;> simp
  | rank d => obtain ⟨-, rfl⟩ | ⟨-, -, rfl⟩ := execRank_next h <;> simp

/-- Every command but RANK leaves its results alone. -/
theorem exec_rank_results_eq {i : Instr} {s t : State} (h : exec i s = .next t)
    (hi : ¬ ∃ d, i = .rank d) : t.rankResult = s.rankResult ∧ t.matrix = s.matrix := by
  obtain ⟨-, -, -, -, hres, hmat⟩ := exec_writers h
  exact ⟨by_contra (hi ∘ hres), by_contra (hi ∘ hmat)⟩

/-! ### The invariants of R45 -/

/-- The first three invariants of R45: those of the generator. -/
abbrev Machine.State.GenInv (s : State) : Prop :=
  (s.seeded = true → s.modValid = true ∧ s.genState < s.modulus) ∧
  (s.seedNonempty = true → s.modValid = true) ∧
  (s.modValid = true → s.seedAcc < s.modulus ∧ 2 ≤ s.modulus)

/-- BUSY is a view of PEND (R29), so what R45 says beyond the generator is DONE = 0 while busy. -/
theorem ruleInv_iff (s : State) :
    s.RuleInv ↔ s.GenInv ∧ (s.pend ≠ none → s.done = false) := by
  have hb : s.busy = true ↔ s.pend ≠ none := by simp [State.busy, Option.isSome_iff_ne_none]
  unfold State.RuleInv State.GenInv
  rw [hb]
  tauto

theorem resetOf_genInv (p : Params) : (State.resetOf p).GenInv :=
  ((ruleInv_iff _).1 (State.resetOf_ruleInv p)).1

/-- Each command keeps the generator's invariants: the values it writes are remainders modulo N or 0. -/
theorem exec_keeps_genInv {i : Instr} {s t : State} (hs : s.GenInv) (h : exec i s = .next t) :
    t.GenInv := by
  have ⟨hseed, hne, hmod⟩ := hs
  cases i with
  | nop => obtain rfl := execNop_next h; exact hs
  | loadModulus =>
    obtain ⟨-, rfl⟩ | ⟨hv, rfl⟩ := execLoadModulus_next h
    · exact hs
    · exact ⟨nofun, nofun, fun _ => ⟨Nat.zero_lt_two.trans_le hv, hv⟩⟩
  | seedClear =>
    obtain rfl := execSeedClear_next h
    exact ⟨hseed, nofun, fun hm => ⟨Nat.zero_lt_of_lt (hmod hm).1, (hmod hm).2⟩⟩
  | seedAbsorb b =>
    obtain ⟨hm, rfl⟩ | ⟨-, rfl⟩ := execSeedAbsorb_next h
    · have hpos : 0 < s.modulus := Nat.zero_lt_of_lt (hmod hm).1
      exact ⟨hseed, fun _ => hm, fun _ => ⟨Nat.mod_lt _ hpos, (hmod hm).2⟩⟩
    · exact hs
  | seedCommit =>
    obtain ⟨hm, -, rfl⟩ | ⟨-, -, rfl⟩ | ⟨-, rfl⟩ := execSeedCommit_next h
    · have ⟨hacc, htwo⟩ := hmod hm
      exact ⟨fun _ => ⟨hm, hacc⟩, nofun, fun _ => ⟨Nat.zero_lt_of_lt hacc, htwo⟩⟩
    · exact hs
    · exact hs
  | nextBits c =>
    obtain ⟨-, rfl⟩ | ⟨-, hm, hsd, rfl⟩ | ⟨-, -, -, rfl⟩ | ⟨-, -, rfl⟩ := execNextBits_next h
    · exact hs
    · exact ⟨fun _ => ⟨hm, emit_fst_lt _ _ (hseed hsd).2⟩, hne, hmod⟩
    · exact hs
    · exact hs
  | rank d => obtain ⟨-, rfl⟩ | ⟨-, -, rfl⟩ := execRank_next h <;> exact hs

/-- Settles O51: only a command or a reset writes what the generator's invariants speak of, and the one
step that makes the block busy, acceptance, clears DONE. -/
theorem everyStepKeepsTheRuleInvariants : Obligations.EveryStepKeepsTheRuleInvariants := by
  intro s t hs h
  have ⟨hgen, hdone⟩ := (ruleInv_iff s).1 hs
  rw [ruleInv_iff]
  cases stepTo_of_step h with
  | quiet => exact ⟨hgen, hdone⟩
  | reset => exact ⟨resetOf_genInv s.params, fun hp => absurd rfl hp⟩
  | setIrqEn => exact ⟨hgen, hdone⟩
  | clearStatus v => exact ⟨hgen, fun hp => by simp [hdone hp]⟩
  | accept => exact ⟨hgen, fun _ => rfl⟩
  | drop => exact ⟨hgen, hdone⟩
  | storeRow => exact ⟨hgen, hdone⟩
  | storeWord => exact ⟨hgen, hdone⟩
  | error => exact ⟨hgen, fun hp => absurd rfl hp⟩
  | command i _ _ he =>
    have ⟨hpend, _⟩ := exec_next_frame he
    exact ⟨exec_keeps_genInv (s := s.popped) hgen he, fun hp => absurd hpend hp⟩

/-! ### Shape, widths and results -/

/-- Each command keeps the hidden registers W bits wide (R40-R42). -/
theorem exec_keeps_widths {i : Instr} {s t : State} (hl : s.params.Legal) (hgen : s.GenInv)
    (hs : s.Widths) (h : exec i s = .next t) : t.Widths := by
  have ⟨hn, hg, ha⟩ := hs
  have hzero : 0 < 2 ^ s.params.W := Nat.two_pow_pos _
  have ⟨hseed, _, hmod⟩ := hgen
  cases i with
  | nop => obtain rfl := execNop_next h; exact hs
  | loadModulus =>
    obtain ⟨-, rfl⟩ | ⟨-, rfl⟩ := execLoadModulus_next h
    · exact hs
    · exact ⟨State.opbufValue_lt hl, hzero, hzero⟩
  | seedClear => obtain rfl := execSeedClear_next h; exact ⟨hn, hg, hzero⟩
  | seedAbsorb b =>
    obtain ⟨hm, rfl⟩ | ⟨-, rfl⟩ := execSeedAbsorb_next h
    · have hpos : 0 < s.modulus := Nat.zero_lt_of_lt (hmod hm).1
      exact ⟨hn, hg, (Nat.mod_lt _ hpos).trans hn⟩
    · exact hs
  | seedCommit =>
    obtain ⟨-, -, rfl⟩ | ⟨-, -, rfl⟩ | ⟨-, rfl⟩ := execSeedCommit_next h
    · exact ⟨hn, ha, hzero⟩
    · exact hs
    · exact hs
  | nextBits c =>
    obtain ⟨-, rfl⟩ | ⟨-, -, hsd, rfl⟩ | ⟨-, -, -, rfl⟩ | ⟨-, -, rfl⟩ := execNextBits_next h
    · exact hs
    · exact ⟨hn, (emit_fst_lt _ _ (hseed hsd).2).trans hn, ha⟩
    · exact hs
    · exact hs
  | rank d => obtain ⟨-, rfl⟩ | ⟨-, -, rfl⟩ := execRank_next h <;> exact hs

/-- Each command keeps the matrix in its form: RANK is the one that writes it. -/
theorem exec_keeps_matrix_wf {i : Instr} {s t : State} {n : Nat} (hs : s.matrix.wf n)
    (h : exec i s = .next t) : t.matrix.wf n := by
  by_cases hr : ∃ d, i = .rank d
  · obtain ⟨d, rfl⟩ := hr
    obtain ⟨-, rfl⟩ | ⟨-, -, rfl⟩ := execRank_next h
    · exact hs
    · exact writeRows_wf _ _ hs
  · rwa [(exec_rank_results_eq h hr).2]

/-- Each command keeps the shape of the state. -/
theorem exec_keeps_shape {i : Instr} {s t : State} (hs : s.Shape) (h : exec i s = .next t) :
    t.Shape := by
  obtain ⟨hl, ho, hm⟩ := hs
  obtain ⟨-, -, -, -, hopbuf, hparams, -⟩ := exec_next_frame h
  unfold State.Shape
  rw [hopbuf, hparams]
  exact ⟨hl, ho, exec_keeps_matrix_wf hm h⟩

/-- The completion fields of a command agree: ERR = 1 with a code of R180, or ERR = 0 with code 0. -/
theorem exec_next_err {i : Instr} {s t : State} (h : exec i s = .next t) :
    (t.err = true ∧ ∃ c : ErrorCode, t.errCode = c.code) ∨ (t.err = false ∧ t.errCode = 0) := by
  cases i with
  | nop => obtain rfl := execNop_next h; simp
  | loadModulus => obtain ⟨-, rfl⟩ | ⟨-, rfl⟩ := execLoadModulus_next h <;> simp
  | seedClear => obtain rfl := execSeedClear_next h; simp
  | seedAbsorb b => obtain ⟨-, rfl⟩ | ⟨-, rfl⟩ := execSeedAbsorb_next h <;> simp
  | seedCommit =>
    obtain ⟨-, -, rfl⟩ | ⟨-, -, rfl⟩ | ⟨-, rfl⟩ := execSeedCommit_next h <;> simp
  | nextBits c =>
    obtain ⟨-, rfl⟩ | ⟨-, -, -, rfl⟩ | ⟨-, -, -, rfl⟩ | ⟨-, -, rfl⟩ := execNextBits_next h <;> simp
  | rank d => obtain ⟨-, rfl⟩ | ⟨-, -, rfl⟩ := execRank_next h <;> simp

/-- The codes of R180 are 1 to 7. -/
theorem ErrorCode.code_range (c : ErrorCode) : c.code ≠ 0 ∧ c.code.toNat ≤ 7 := by
  cases c <;> decide

/-- Each command keeps the ranges of the results; RANK is the one that writes RANK_RESULT. -/
theorem exec_keeps_rankResult_le {i : Instr} {s t : State} (hs : s.rankResult.toNat ≤ 32)
    (h : exec i s = .next t) : t.rankResult.toNat ≤ 32 := by
  by_cases hr : ∃ d, i = .rank d
  · obtain ⟨d, rfl⟩ := hr
    obtain ⟨-, rfl⟩ | ⟨-, hd, rfl⟩ := execRank_next h
    · exact hs
    · exact (rank_toNat_le s hd).trans hd
  · rwa [(exec_rank_results_eq h hr).1]

theorem exec_keeps_results {i : Instr} {s t : State} (hs : s.Results) (h : exec i s = .next t) :
    t.Results := by
  have hrank := exec_keeps_rankResult_le hs.2.2 h
  obtain ⟨herr, c, hc⟩ | ⟨herr, hc⟩ := exec_next_err h
  · have ⟨hne, hle⟩ := c.code_range
    rw [State.Results, hc]
    exact ⟨iff_of_true herr hne, hle, hrank⟩
  · rw [State.Results, hc]
    exact ⟨by simp [herr], by decide, hrank⟩

/-- Settles O52: a command keeps each part by a lemma above, a buffer write keeps the buffer's form, and
no other step but a reset writes what these speak of, ERR and ERR_CODE apart. -/
theorem everyStepKeepsShapeAndWidths : Obligations.EveryStepKeepsShapeAndWidths := by
  intro s t hrule hs hw hr h
  have ⟨hl, ho, hm⟩ := hs
  have ⟨_, _, hrank⟩ := hr
  cases stepTo_of_step h with
  | quiet => exact ⟨hs, hw, hr, rfl⟩
  | reset =>
    exact ⟨State.resetOf_shape s.params hl, State.resetOf_widths s.params,
      State.resetOf_results s.params, rfl⟩
  | setIrqEn => exact ⟨hs, hw, hr, rfl⟩
  | clearStatus => exact ⟨hs, hw, hr, rfl⟩
  | accept => exact ⟨hs, hw, ⟨by simp, by simp, hrank⟩, rfl⟩
  | drop => exact ⟨hs, hw, hr, rfl⟩
  | storeRow r v => exact ⟨⟨hl, ho, Buffer.store_wf r v hm⟩, hw, hr, rfl⟩
  | storeWord j v => exact ⟨⟨hl, Buffer.store_wf j v ho, hm⟩, hw, hr, rfl⟩
  | error w c =>
    have ⟨hne, hle⟩ := c.code_range
    exact ⟨hs, hw, ⟨iff_of_true rfl hne, hle, hrank⟩, rfl⟩
  | command i _ _ he =>
    have ⟨hgen, _⟩ := (ruleInv_iff s).1 hrule
    obtain ⟨-, -, -, -, -, hparams, -⟩ := exec_next_frame he
    exact ⟨exec_keeps_shape (s := s.popped) hs he, exec_keeps_widths (s := s.popped) hl hgen hw he,
      exec_keeps_results (s := s.popped) hr he, hparams⟩

/-! ### The writers of R49 -/

/-- Settles O54: each kind of step changes only what it is named for, and a command what
`exec_writers` says. -/
theorem onlyTheNamedWritersWrite : Obligations.OnlyTheNamedWritersWrite := by
  intro s t h
  cases stepTo_of_step h with
  | quiet => simp
  | reset r hr => simp [hr]
  | setIrqEn v hv => simpa using fun _ => .inl ⟨v, hv⟩
  | clearStatus v hv =>
    have hw : ∃ v, HostWrites .status v s := ⟨v, hv⟩
    simp [hw]
  | accept v hp hv =>
    have hw : ∃ v, HostWrites .cmd v s := ⟨v, hv⟩
    simp [hw, hp]
  | drop v hp hv => simpa using fun _ => .inl ⟨hp, v, hv⟩
  | storeRow r v hp hv =>
    have hw : ∃ r v, HostWrites (.matrix r) v s := ⟨r, v, hv⟩
    simp [hw, hp]
  | storeWord j v hp hv =>
    have hw : ∃ j v, HostWrites (.opbuf j) v s := ⟨j, v, hv⟩
    simp [hw, hp]
  | error w c hc => simp [hc]
  | command i _ hc he =>
    obtain ⟨-, -, hirq, hover, hopbuf, -⟩ := exec_next_frame he
    obtain ⟨hmod, hgen, hseed, hbits, hres, hmat⟩ := exec_writers he
    refine ⟨fun hx => absurd hirq hx, fun _ => .inr (.inl hc.completesAny),
      fun hx => absurd hover hx, fun hx => ?_, fun hx => ?_, fun hx => ?_, fun hx => ?_,
      fun hx => ?_, fun hx => ?_, fun hx => absurd hopbuf hx, fun _ => .inr (.inl hc.completesAny)⟩
    · obtain rfl := hmod hx
      exact .inl hc
    · obtain rfl | rfl | ⟨c, rfl⟩ := hgen hx
      · exact .inl hc
      · exact .inr (.inl hc)
      · exact .inr (.inr (.inl ⟨c, hc⟩))
    · obtain rfl | rfl | ⟨b, rfl⟩ | rfl := hseed hx
      · exact .inl hc
      · exact .inr (.inl hc)
      · exact .inr (.inr (.inl ⟨b, hc⟩))
      · exact .inr (.inr (.inr (.inl hc)))
    · obtain ⟨c, rfl⟩ := hbits hx
      exact .inl ⟨c, hc⟩
    · obtain ⟨d, rfl⟩ := hres hx
      exact .inl ⟨d, hc⟩
    · obtain ⟨d, rfl⟩ := hmat hx
      exact .inr (.inl ⟨d, hc⟩)

/-! ### Consuming unwritten operands (R50, R110) -/

theorem Machine.Buffer.allWritten_eq_false_iff {b : Buffer} {n : Nat} :
    b.allWritten n = false ↔ ∃ j < n, (b.word j).written = false := by
  simp [Buffer.allWritten]

/-- Decoding answers only legal commands (R85). -/
theorem wf_of_decode {w : Word} {i : Instr} (h : decode w = .valid i) : i.wf = true := by
  unfold decode at h
  split at h
  · cases h
  · next op _ =>
    split_ifs at h with _ _ hwf
    obtain rfl : op.instr (immField w) = i := by simpa using h
    simpa using hwf

/-- A RANK that completes has a side of 1 to 32 (R81). -/
theorem Completes.rank_bounds {d : Byte} {s : State} (h : Completes (.rank d) s) :
    1 ≤ d.toNat ∧ d.toNat ≤ 32 := by
  obtain ⟨-, w, -, hd⟩ := h
  simpa [Instr.wf] using wf_of_decode hd

/-- The step that completes a command executes it. -/
theorem Completes.exec_popped {i : Instr} {s t : State} (hc : Completes i s)
    (h : step s = .next t) : exec i s.popped = .next t := by
  obtain ⟨he, w, hw, hd⟩ := hc
  have hrun : step s = completion s.popped := by rw [step, he]; rfl
  rw [← completion_valid (s := s.popped) hw hd, ← hrun, h]

theorem exec_loadModulus_modelFault {s t : State}
    (hw : ∃ j < s.params.nw, (s.opbuf.word j).written = false)
    (h : exec .loadModulus s = .next t) :
    t.modelFault = s.modelFault.or (some .unwrittenOpbuf) := by
  have hf := Buffer.allWritten_eq_false_iff.2 hw
  obtain ⟨-, rfl⟩ | ⟨-, rfl⟩ := execLoadModulus_next h <;> simp [hf]

theorem exec_rank_modelFault {d : Byte} {s t : State} (h1 : 1 ≤ d.toNat) (h32 : d.toNat ≤ 32)
    (hw : ∃ r < d.toNat, (s.matrix.word r).written = false) (h : exec (.rank d) s = .next t) :
    t.modelFault = s.modelFault.or (some .unwrittenMatrix) := by
  have hf := Buffer.allWritten_eq_false_iff.2 hw
  obtain ⟨hd, -⟩ | ⟨-, -, rfl⟩ := execRank_next h
  · omega
  · simp [hf]

/-- A step moves the record of model faults, or draws while completing, only where a command
consumes an unwritten word. -/
theorem step_next_modelFault {s t : State} (h : step s = .next t) :
    (t.modelFault = s.modelFault ∧ (CompletesAny s → t.draws = s.draws)) ∨
    (Completes .loadModulus s ∧ (∃ j < s.params.nw, (s.opbuf.word j).written = false) ∧
      t.modelFault = s.modelFault.or (some .unwrittenOpbuf)) ∨
    ∃ d, Completes (.rank d) s ∧ (∃ r < d.toNat, (s.matrix.word r).written = false) ∧
      t.modelFault = s.modelFault.or (some .unwrittenMatrix) := by
  cases stepTo_of_step h with
  | quiet _ _ hc => exact .inl ⟨rfl, fun h => absurd h hc⟩
  | command i _ hc he =>
    obtain ⟨hdraws, hfault⟩ | ⟨rfl, hw, -, hfault⟩ | ⟨d, rfl, hw, -, hfault⟩ := exec_next_draws he
    · exact .inl ⟨hfault, fun _ => hdraws⟩
    · exact .inr (.inl ⟨hc, Buffer.allWritten_eq_false_iff.1 hw, hfault⟩)
    · exact .inr (.inr ⟨d, hc, Buffer.allWritten_eq_false_iff.1 hw, hfault⟩)
  | _ => exact .inl ⟨rfl, fun _ => rfl⟩

/-- Settles O56: the two commands that consume words record their faults, and no other step moves the
record. -/
theorem modelFaultsAreUnwrittenOperands : Obligations.ModelFaultsAreUnwrittenOperands := by
  intro s t h
  refine ⟨fun hc hw => exec_loadModulus_modelFault (s := s.popped) hw (hc.exec_popped h),
    fun d hc hw => ?_, fun hlm hrk => ?_, fun hc hnone => ?_⟩
  · obtain ⟨h1, h32⟩ := hc.rank_bounds
    exact exec_rank_modelFault (s := s.popped) h1 h32 hw (hc.exec_popped h)
  · obtain ⟨hfault, -⟩ | ⟨hc, hw, -⟩ | ⟨d, hc, hw, -⟩ := step_next_modelFault h
    · exact hfault
    · exact absurd ⟨hc, hw⟩ hlm
    · exact absurd ⟨d, hc, hw⟩ hrk
  · obtain ⟨-, hdraws⟩ | ⟨-, -, hfault⟩ | ⟨d, -, -, hfault⟩ := step_next_modelFault h
    · exact hdraws hc
    · simp [hfault] at hnone
    · simp [hfault] at hnone

/-! ### Written buffers stay written -/

/-- Every OPBUF word and every MATRIX row has been written since reset (R50). -/
def BuffersWritten (s : State) : Prop :=
  (∀ j < s.params.nw, (s.opbuf.word j).written = true) ∧ RowsWritten s 32

/-- No event to come is a reset (R210). -/
def NoResetScheduled (s : State) : Prop :=
  ∀ e ∈ s.events, e ≠ .resetInput ∧ ∀ (addr : Nat) (v : Word),
    e = .busWrite 32 addr v → v.getLsbD 1 = true → selectReg s.params 32 addr ≠ some .ctrl

/-- The next event is the first of the schedule, or the completion that comes when it has run out. -/
theorem nextEvent_cases (s : State) :
    (nextEvent s = (.complete, []) ∧ s.events = []) ∨
      s.events = (nextEvent s).1 :: (nextEvent s).2 := by
  cases h : s.events with
  | nil => exact .inl ⟨nextEvent_nil h, rfl⟩
  | cons e rest => exact .inr (by rw [nextEvent_cons h])

theorem NoResetScheduled.not_resets {s : State} (hs : NoResetScheduled s) : ¬ Resets s := by
  rintro hr
  obtain ⟨hn, -⟩ | he := nextEvent_cases s
  · simp [Resets, HostWrites, hn] at hr
  · obtain ⟨hinput, hctrl⟩ := hs (nextEvent s).1 (by simp [he])
    obtain hreset | ⟨v, hv, addr, hw, hsel⟩ := hr
    · exact hinput hreset
    · exact hctrl addr v hw hv hsel

/-- A step takes its event off the schedule and leaves the parameters alone. -/
theorem step_next_events_params {s t : State} (h : step s = .next t) :
    t.events = (nextEvent s).2 ∧ t.params = s.params := by
  cases stepTo_of_step h with
  | command i _ _ he =>
    obtain ⟨-, -, -, -, -, hparams, hevents, -⟩ := exec_next_frame he
    exact ⟨hevents, hparams⟩
  | _ => exact ⟨rfl, rfl⟩

theorem NoResetScheduled.of_step {s t : State} (hs : NoResetScheduled s) (h : step s = .next t) :
    NoResetScheduled t := by
  obtain ⟨hevents, hparams⟩ := step_next_events_params h
  intro e he
  rw [hparams]
  rw [hevents] at he
  obtain ⟨hn, -⟩ | hcons := nextEvent_cases s
  · simp [hn] at he
  · exact hs e (by rw [hcons]; exact List.mem_cons_of_mem _ he)

/-- A write leaves a written word written. -/
theorem Machine.Buffer.store_written {b : Buffer} {k : Nat} (j : Nat) (v : Word)
    (h : (b.word k).written = true) : ((b.store j v).word k).written = true := by
  by_cases hk : k = j
  · subst hk
    rw [Buffer.word_store_same v (Buffer.lt_length_of_written h)]
  · rw [Buffer.word_store_other b v hk, h]

/-- No command makes a row unwritten; RANK writes its rows. -/
theorem exec_keeps_row_written {i : Instr} {s t : State} {r : Nat}
    (hs : (s.matrix.word r).written = true) (h : exec i s = .next t) :
    (t.matrix.word r).written = true := by
  by_cases hr : ∃ d, i = .rank d
  · obtain ⟨d, rfl⟩ := hr
    obtain ⟨-, rfl⟩ | ⟨-, -, rfl⟩ := execRank_next h
    · exact hs
    · exact writeRows_written _ _ hs
  · rwa [(exec_rank_results_eq h hr).2]

/-- Only a reset makes a written word unwritten. -/
theorem BuffersWritten.of_step {s t : State} (hs : BuffersWritten s) (hr : ¬ Resets s)
    (h : step s = .next t) : BuffersWritten t := by
  have ⟨hopbuf, hrows⟩ := hs
  cases stepTo_of_step h with
  | reset _ hreset => exact absurd hreset hr
  | storeRow k v => exact ⟨hopbuf, fun r hlt => Buffer.store_written k v (hrows r hlt)⟩
  | storeWord k v => exact ⟨fun j hlt => Buffer.store_written k v (hopbuf j hlt), hrows⟩
  | command i _ _ he =>
    obtain ⟨-, -, -, -, hsame, hparams, -⟩ := exec_next_frame he
    refine ⟨?_, fun r hlt => exec_keeps_row_written (s := s.popped) (hrows r hlt) he⟩
    rw [hsame, hparams]
    exact hopbuf
  | _ => exact hs

/-- While the buffers are written no step is a model fault and no completion draws. -/
theorem BuffersWritten.modelFault_eq {s t : State} (hs : BuffersWritten s)
    (h : step s = .next t) :
    t.modelFault = s.modelFault ∧ (CompletesAny s → t.draws = s.draws) := by
  obtain ⟨hopbuf, hrows⟩ := hs
  obtain hkept | ⟨-, ⟨j, hj, hw⟩, -⟩ | ⟨d, hc, ⟨r, hr, hw⟩, -⟩ := step_next_modelFault h
  · exact hkept
  · simp [hopbuf j hj] at hw
  · have hd := hc.rank_bounds.2
    simp [hrows r (by omega)] at hw

/-- Settles O57, by induction on the run: the buffers stay written and no reset comes. -/
theorem writtenBuffersStayWritten : Obligations.WrittenBuffersStayWritten := by
  intro s hopbuf hrows hsched t ht
  have hinv : BuffersWritten t ∧ NoResetScheduled t := by
    induction ht with
    | refl => exact ⟨⟨hopbuf, hrows⟩, hsched⟩
    | tail _ hstep ih =>
      obtain ⟨hw, hn⟩ := ih
      exact ⟨hw.of_step hn.not_resets hstep, hn.of_step hstep⟩
  obtain ⟨hw, -⟩ := hinv
  exact ⟨hw.1, hw.2, fun u hu => hw.modelFault_eq hu⟩

/-! ### One host transaction (R60-R65) -/

/-- A host write that selects a register is that register's write. -/
theorem step_of_hostWrites {s : State} {r : Reg} {v : Word} (h : HostWrites r v s) :
    step s = .next ((s.popped.writeReg v r).respond .ok) := by
  obtain ⟨addr, he, hsel⟩ := h
  have hrun : step s = .next (s.popped.busWrite 32 addr v) := by rw [step, he]; rfl
  rw [hrun, State.busWrite]
  simp only [hsel]

section Access

variable {s : State} {off : Nat} {rest : List Event} {r : Reg}

/-- A write scheduled at a register's offset. -/
theorem step_write {v : Word} (he : s.events = .busWrite 32 (s.params.base + off) v :: rest)
    (hlt : off < 0x2000) (ha : off % 4 = 0) (hr : Reg.ofOffset s.params.nw off = r) :
    step s = .next ((({ s with events := rest } : State).writeReg v r).respond .ok) := by
  have hn := nextEvent_cons he
  have hw : HostWrites r v s := ⟨_, by rw [hn], by rw [selectReg_base _ hlt ha, hr]⟩
  rw [step_of_hostWrites hw, State.popped, hn]

/-- A read scheduled at a register's offset, where the register shows a value. -/
theorem step_read_value {w : Word} (he : s.events = .busRead 32 (s.params.base + off) :: rest)
    (hlt : off < 0x2000) (ha : off % 4 = 0) (hr : Reg.ofOffset s.params.nw off = r)
    (hv : s.readReg r = some w) :
    step s = .next { s with events := rest, resp := some (.data w) } := by
  have hv' : ({ s with events := rest } : State).readReg r = some w := hv
  have hsel := selectReg_base s.params hlt ha
  rw [hr] at hsel
  rw [step_cons he, runEvent, State.busRead]
  simp only [hsel, hv']
  rfl

/-- A read scheduled at a register's offset, where the register shows a fresh draw. -/
theorem step_read_draw (he : s.events = .busRead 32 (s.params.base + off) :: rest)
    (hlt : off < 0x2000) (ha : off % 4 = 0) (hr : Reg.ofOffset s.params.nw off = r)
    (hv : s.readReg r = none) :
    step s = .next { s with
      events := rest, resp := some (.data (Config.freeValue s.draws)), draws := s.draws + 1 } := by
  have hv' : ({ s with events := rest } : State).readReg r = none := hv
  have hsel := selectReg_base s.params hlt ha
  rw [hr] at hsel
  rw [step_cons he, runEvent, State.busRead]
  simp only [hsel, hv']
  rfl

end Access

/-! ### The words of PARAM, CTRL and STATUS (R24-R33) -/

/-- A flag is at its own bit and nowhere else. -/
theorem flagAt_getLsbD (b : Bool) {n : Nat} (k : Nat) (hn : n < 32) :
    (flagAt b n).getLsbD k = (decide (k = n) && b) := by
  by_cases hk : k = n
  · subst hk
    simp [flagAt, hn]
  · by_cases hlt : k < n
    · simp [flagAt, hk, hlt]
    · have h0 : k - n ≠ 0 := by omega
      simp [flagAt, hk, h0]

theorem ctrlWord_eq (s : State) : s.ctrlWord = if s.irqEn then 1 else 0 := by
  cases h : s.irqEn <;> simp [State.ctrlWord, flagAt, h]

/-- The bits of STATUS (R28). -/
theorem statusWord_getLsbD (s : State) (k : Nat) :
    s.statusWord.getLsbD k =
      (decide (k = 0) && s.busy || decide (k = 1) && s.done || decide (k = 2) && s.err ||
        decide (k = 3) && s.overrun || decide (k = 4) && s.modValid || decide (k = 5) && s.seeded ||
        decide (k = 6) && s.seedNonempty || decide (8 ≤ k) && s.errCode.getLsbD (k - 8)) := by
  have hcode : (s.errCode.setWidth 32 <<< 8).getLsbD k =
      (decide (8 ≤ k) && s.errCode.getLsbD (k - 8)) := by
    by_cases h8 : k < 8
    · simp [h8]
    · by_cases h12 : k - 8 < 4
      · have h32 : k < 32 := by omega
        simp [h8, h32, Nat.le_of_not_lt h8]
      · simp [BitVec.getLsbD_of_ge s.errCode (k - 8) (Nat.le_of_not_lt h12)]
  simp [State.statusWord, flagAt_getLsbD, -BitVec.getLsbD_shiftLeft, hcode]

theorem paramWord_toNat {s : State} (h : s.params.nw < 65536) :
    s.paramWord.toNat = 32 * 65536 + s.params.nw := by
  have hnw : s.params.nw % 2 ^ 32 = s.params.nw := Nat.mod_eq_of_lt (by omega)
  have hor : 32 <<< 16 + s.params.nw = 32 <<< 16 ||| s.params.nw :=
    Nat.shiftLeft_add_eq_or_of_lt h 32
  simp only [State.paramWord, Config.matN, BitVec.toNat_or, BitVec.toNat_ofNat, hnw]
  exact hor.symm

/-- A field of PARAM (R24). -/
theorem paramWord_extractLsb' {s : State} {k n x : Nat} (h : s.params.nw < 65536)
    (hx : (32 * 65536 + s.params.nw) / 2 ^ k % 2 ^ n = x % 2 ^ n) :
    s.paramWord.extractLsb' k n = BitVec.ofNat n x := by
  apply BitVec.eq_of_toNat_eq
  rw [BitVec.extractLsb'_toNat, paramWord_toNat h, Nat.shiftRight_eq_div_pow, BitVec.toNat_ofNat, hx]

/-- NW is at most 1024 (R7). -/
theorem Params.Legal.nw_le {p : Params} (h : p.Legal) : p.nw ≤ 1024 := by
  obtain ⟨-, -, hw, -⟩ := h
  unfold Params.nw
  omega

/-! ### The registers of R22 -/

/-- Settles O37: PARAM is `32 * 65536 + NW` with NW below 65536, so its fields do not overlap. -/
theorem idAndParamAreConstant : Obligations.IdAndParamAreConstant := by
  intro s v rest hl
  have hnw := hl.nw_le
  refine ⟨fun he => step_read_value (off := 0) he (by decide) (by decide) rfl rfl,
    fun he => ⟨s.paramWord, step_read_value he (by decide) (by decide) rfl rfl, ?_, ?_, ?_⟩, ?_⟩
  · exact paramWord_extractLsb' (by omega) (by rw [Params.nw]; omega)
  · exact paramWord_extractLsb' (by omega) (by omega)
  · exact paramWord_extractLsb' (by omega) (by omega)
  · rintro (he | he)
    · exact step_write (off := 0) he (by decide) (by decide) rfl
    · exact step_write he (by decide) (by decide) rfl

/-- Settles O38: without bit 1 a CTRL write is no reset. -/
theorem ctrlRule : Obligations.CtrlRule := by
  intro s v rest
  refine ⟨fun he hv => ?_, fun he => ?_⟩
  · have hw (q : State) : q.writeReg v .ctrl = { q with irqEn := v.getLsbD 0 } :=
      if_neg (Bool.eq_false_iff.1 hv)
    rw [step_write (r := .ctrl) he (by decide) (by decide) rfl, hw]
    rfl
  · rw [← ctrlWord_eq]
    exact step_read_value he (by decide) (by decide) rfl rfl

/-- Settles O39: bit 1 alone decides that a CTRL write resets. -/
theorem softResetRule : Obligations.SoftResetRule := by
  intro s v rest he hv
  have hw (q : State) : q.writeReg v .ctrl = q.performReset := if_pos hv
  rw [step_write (r := .ctrl) he (by decide) (by decide) rfl, hw]
  rfl

/-- Settles O40: each bit of a read is its flag's, and a write of 1 clears DONE or OVERRUN. -/
theorem statusRule : Obligations.StatusRule := by
  intro s v rest
  refine ⟨fun he => ⟨s.statusWord, step_read_value he (by decide) (by decide) rfl rfl, ?_⟩,
    fun he => ?_⟩
  · refine ⟨?_, ?_, ?_, ?_, ?_, ?_, ?_, ?_, fun b hb => ?_, fun b hb => ?_⟩ <;>
      rw [statusWord_getLsbD]
    case refine_9 =>
      have hne (n : Nat) (hn : n < 8) : ¬ 8 + b = n := by omega
      simp [hne]
    case refine_10 =>
      have hne (n : Nat) (hn : n < 8) : ¬ b = n := by omega
      simp [hne, BitVec.getLsbD_of_ge s.errCode (b - 8) (by omega)]
    all_goals simp [State.busy]
  · have hclear (f c : Bool) : (if c then false else f) = (f && !c) := by cases c <;> simp
    rw [step_write (r := .status) he (by decide) (by decide) rfl, hclear, hclear]
    rfl

/-- Settles O41: the register map sends all three ranges to the reserved register. -/
theorem reservedOffsetsReadZero : Obligations.ReservedOffsetsReadZero := by
  intro s off v rest ha hoff
  have hlt : off < 0x2000 := by omega
  have hr := ofOffset_reserved hoff
  exact ⟨fun he => step_read_value he hlt ha hr rfl, fun he => step_write he hlt ha hr⟩

/-- Settles O42: the block does nothing on a write to these registers, and CMD shows 0. -/
theorem resultRegistersIgnoreWrites : Obligations.ResultRegistersIgnoreWrites := by
  intro s v rest
  refine ⟨?_, fun he => step_read_value he (by decide) (by decide) rfl rfl⟩
  rintro (he | he) <;> exact step_write he (by decide) (by decide) rfl

/-- PEND holds a word of an opcode if its OP field is the opcode's (R80, R83). -/
theorem pendingOp_eq_true {s : State} {op : Opcode} {w : Word} (hp : s.pend = some w)
    (hw : opField w = op.field) : s.pendingOp op = true := by
  simp [State.pendingOp, hp, hw]

theorem pendingOp_eq_false {s : State} {op : Opcode}
    (h : ∀ w, s.pend = some w → opField w ≠ op.field) : s.pendingOp op = false := by
  cases hp : s.pend with
  | none => simp [State.pendingOp, hp]
  | some w =>
    have hne : Opcode.ofField (opField w) ≠ some op :=
      fun hof => h w hp (Opcode.field_of_ofField hof).symm
    simp [State.pendingOp, hp, hne]

theorem Machine.BufWord.read_written {w : BufWord} (h : w.written = true) : w.read = some w.val :=
  if_pos h

theorem Machine.BufWord.read_unwritten {w : BufWord} (h : w.written = false) : w.read = none := by
  simp [BufWord.read, h]

/-- A register that the command of `op` writes shows a draw while a word of it is pending (R221). -/
theorem ite_pendingOp_of_pend {α : Type} {s : State} {op : Opcode} {w : Word} (x y : α)
    (hp : s.pend = some w) (hw : opField w = op.field) : (if s.pendingOp op then x else y) = x :=
  if_pos (pendingOp_eq_true hp hw)

theorem ite_pendingOp_of_not_pend {α : Type} {s : State} {op : Opcode} (x y : α)
    (h : ∀ w, s.pend = some w → opField w ≠ op.field) : (if s.pendingOp op then x else y) = y :=
  if_neg (by simp [pendingOp_eq_false h])

/-- Settles O43: a read is a draw while a word of the writing command is pending, or while the word read
is unwritten. -/
theorem readsOfResultsAndBuffers : Obligations.ReadsOfResultsAndBuffers := by
  intro s draw rest off hl he hdraw
  subst hdraw
  have hnw := hl.nw_le
  refine ⟨?_, ?_, ?_, ?_⟩
  · rintro rfl
    exact ⟨fun w hp hw => step_read_draw (r := .bits) he (by decide) (by decide) rfl
        (ite_pendingOp_of_pend (op := .nextBits) _ _ hp hw),
      fun hp => step_read_value (r := .bits) he (by decide) (by decide) rfl
        (ite_pendingOp_of_not_pend (op := .nextBits) _ _ hp)⟩
  · rintro rfl
    exact ⟨fun w hp hw => step_read_draw (r := .rankResult) he (by decide) (by decide) rfl
        (ite_pendingOp_of_pend (op := .rank) _ _ hp hw),
      fun hp => step_read_value (r := .rankResult) he (by decide) (by decide) rfl
        (ite_pendingOp_of_not_pend (op := .rank) _ _ hp)⟩
  · rintro r hr rfl
    have hreg := ofOffset_matrix s.params.nw hr
    refine ⟨fun w hp hw => step_read_draw he (by omega) (by omega) hreg
        (ite_pendingOp_of_pend (op := .rank) _ _ hp hw),
      fun hw => step_read_draw he (by omega) (by omega) hreg ?_,
      fun hp hw => step_read_value he (by omega) (by omega) hreg ?_⟩
    · rw [State.readReg, BufWord.read_unwritten hw, ite_self]
    · exact (ite_pendingOp_of_not_pend (op := .rank) _ _ hp).trans (BufWord.read_written hw)
  · rintro j hj rfl
    have hreg := ofOffset_opbuf hj
    exact ⟨fun hw => step_read_draw he (by omega) (by omega) hreg (BufWord.read_unwritten hw),
      fun hw => step_read_value he (by omega) (by omega) hreg (BufWord.read_written hw)⟩

/-- Settles O44: while idle the write is one `Buffer.store`. -/
theorem idleBufferWritesStore : Obligations.IdleBufferWritesStore := by
  intro s v off rest hl ho hm hp he
  have hnw := hl.nw_le
  have hidle : ¬ ({ s with events := rest } : State).busy = true := by simp [State.busy, hp]
  refine ⟨?_, ?_⟩
  · rintro r hr rfl
    refine ⟨s.matrix.store r v, ?_, by simp [hm], Buffer.word_store_same v (by omega),
      fun k hk => Buffer.word_store_other _ v hk⟩
    rw [step_write he (by omega) (by omega) (ofOffset_matrix _ hr), State.writeReg, if_neg hidle]
    rfl
  · rintro j hj rfl
    refine ⟨s.opbuf.store j v, ?_, by simp [ho], Buffer.word_store_same v (by omega),
      fun k hk => Buffer.word_store_other _ v hk⟩
    rw [step_write he (by omega) (by omega) (ofOffset_opbuf hj), State.writeReg, if_neg hidle]
    rfl

/-! ### Commands on unwritten operands (R50) -/

/-- Settles O15: the consumed words are `word j`, so OPBUF_VALUE is `v`. -/
theorem loadModulusRunsOnUnwrittenWords : Obligations.LoadModulusRunsOnUnwrittenWords := by
  intro s word v hunwritten hword hv
  have hval : s.opbufValue = v := by
    rw [State.opbufValue, State.opbufWords, wordsValue_map_range, hv]
    refine Finset.sum_congr rfl fun j hj => ?_
    rw [hword j (Finset.mem_range.1 hj), Buffer.value]
  have hconsume := s.consume_unwritten (f := .unwrittenOpbuf)
    (Buffer.allWritten_eq_false_iff.2 hunwritten)
  rw [exec, execLoadModulus, hval, hconsume]
  split <;> rfl

/-- A buffer is its words. -/
theorem Machine.Buffer.ext_word {b b' : Buffer} (hlen : b.length = b'.length)
    (h : ∀ r < b.length, b.word r = b'.word r) : b = b' := by
  refine List.ext_getElem hlen fun r hr hr' => ?_
  simpa [Buffer.word, hr, hr'] using h r hr

/-- The write-back depends on the rows it reaches only through the values consumed from them. -/
theorem writeRows_congr {d k k' : Nat} (A : List Word) {m m' : Buffer} (hlen : m.length = m'.length)
    (hlow : ∀ r < d, m.value k r = m'.value k' r) (hhigh : ∀ r, d ≤ r → m.word r = m'.word r) :
    writeRows d A k m = writeRows d A k' m' := by
  refine Buffer.ext_word (by simp [hlen]) fun r hr => ?_
  rw [length_writeRows] at hr
  by_cases hd : r < d
  · rw [writeRows_word_lt A k m hd hr, writeRows_word_lt A k' m' hd (hlen ▸ hr), hlow r hd]
  · have hd' := Nat.le_of_not_lt hd
    rw [writeRows_word_ge A k m hd', writeRows_word_ge A k' m' hd', hhigh r hd']

/-- RANK d on a legal side. -/
theorem exec_rank {d : Byte} (s : State) (h1 : 1 ≤ d.toNat) (h32 : d.toNat ≤ 32) :
    exec (.rank d) s = .next ({ s.consume .unwrittenMatrix s.matrix d.toNat with
      matrix := writeRows d.toNat (Gf2.eliminate d.toNat (s.matrixRows d.toNat)) s.draws s.matrix
      rankResult := BitVec.ofNat 32
        (Gf2.nonzeroRows (Gf2.eliminate d.toNat (s.matrixRows d.toNat))) } : State).succeed := by
  have hd : ¬ (d.toNat = 0 ∨ 32 < d.toNat) := by omega
  exact if_neg hd

/-- Settles O21: the filled-in matrix `m` gives RANK the values it draws for the unwritten rows. -/
theorem rankRunsOnUnwrittenRows : Obligations.RankRunsOnUnwrittenRows := by
  intro s d m h1 h32 hlen hunwritten hmlen hm
  have hlow : ∀ r < d.toNat, (m.word r).written = true ∧
      ∀ k, s.matrix.value s.draws r = m.value k r := by
    intro r hr
    have hmr := hm r
    cases hw : (s.matrix.word r).written with
    | false =>
      rw [if_pos ⟨hr, hw⟩] at hmr
      have hmw : (m.word r).written = true := by rw [hmr]
      exact ⟨hmw, fun k => by rw [Buffer.value_unwritten _ hw, Buffer.value_written _ hmw, hmr]⟩
    | true =>
      rw [if_neg (by simp [hw])] at hmr
      have hmw : (m.word r).written = true := by rw [hmr, hw]
      exact ⟨hmw, fun k => by rw [Buffer.value_written _ hw, Buffer.value_written _ hmw, hmr]⟩
  have hhigh : ∀ r, d.toNat ≤ r → s.matrix.word r = m.word r := fun r hr => by
    rw [hm r, if_neg (by omega)]
  have hall : m.allWritten d.toNat = true := Buffer.allWritten_iff.2 fun r hr => (hlow r hr).1
  have hconsume := s.consume_unwritten (f := .unwrittenMatrix)
    (Buffer.allWritten_eq_false_iff.2 hunwritten)
  refine ⟨⟨_, exec_rank s h1 h32⟩, ?_⟩
  generalize hs' : ({ s with
    matrix := m, draws := s.draws + d.toNat
    modelFault := s.modelFault.or (some .unwrittenMatrix) } : State) = s'
  have hrows : s.matrixRows d.toNat = s'.matrixRows d.toNat := by
    subst hs'
    refine List.map_congr_left fun r hr => ?_
    rw [(hlow r (List.mem_range.1 hr)).2]
  have hwrite := writeRows_congr (Gf2.eliminate d.toNat (s'.matrixRows d.toNat))
    (hlen.trans hmlen.symm) (fun r hr => (hlow r hr).2 s'.draws) hhigh
  rw [exec_rank s h1 h32, exec_rank s' h1 h32, hrows, hconsume]
  subst hs'
  rw [State.consume_written _ hall, hwrite]

/-! ### The hidden registers (R40-R42) -/

/-- `s` with other values in N, STATE and SEED_ACC. -/
def Machine.State.withHidden (s : State) (n g a : Nat) : State :=
  { s with modulus := n, genState := g, seedAcc := a }

section Hidden

variable (s : State) (n g a : Nat)

theorem readReg_withHidden (r : Reg) : (s.withHidden n g a).readReg r = s.readReg r := by
  cases r <;> rfl

/-- A read does not depend on the hidden registers. -/
theorem busRead_withHidden (width addr : Nat) :
    (s.withHidden n g a).busRead width addr = (s.busRead width addr).withHidden n g a := by
  have hp : (s.withHidden n g a).params = s.params := rfl
  unfold State.busRead
  rw [hp]
  cases selectReg s.params width addr with
  | none => rfl
  | some r =>
    simp only [readReg_withHidden]
    cases s.readReg r <;> rfl

/-- A register write neither reads nor writes the hidden registers, unless it is the one that resets
them. -/
theorem writeReg_withHidden (v : Word) (r : Reg) :
    (s.withHidden n g a).writeReg v r = s.writeReg v r ∨
      (s.withHidden n g a).writeReg v r = (s.writeReg v r).withHidden n g a := by
  have hb : (s.withHidden n g a).busy = s.busy := rfl
  cases r with
  | ctrl =>
    cases hv : v.getLsbD 1
    · right; simp only [State.writeReg, hv]; rfl
    · left; simp only [State.writeReg, hv]; rfl
  | cmd => right; simp only [State.writeReg, hb]; split <;> rfl
  | matrix k => right; simp only [State.writeReg, hb]; split <;> rfl
  | opbuf j => right; simp only [State.writeReg, hb]; split <;> rfl
  | _ => right; rfl

/-- What every step but a completion leaves does not depend on the hidden registers. -/
theorem runEvent_withHidden {e : Event} (he : e ≠ .complete) :
    ∃ t, runEvent e s = .next t ∧
      (runEvent e (s.withHidden n g a) = .next t ∨
        runEvent e (s.withHidden n g a) = .next (t.withHidden n g a)) := by
  cases e with
  | busRead width addr =>
    exact ⟨_, rfl, .inr (congrArg Host.Outcome.next (busRead_withHidden s n g a width addr))⟩
  | busWrite width addr v =>
    refine ⟨_, rfl, ?_⟩
    have hp : (s.withHidden n g a).params = s.params := rfl
    simp only [runEvent, State.busWrite, hp]
    cases selectReg s.params width addr with
    | none => exact .inr rfl
    | some r =>
      obtain hw | hw := writeReg_withHidden s n g a v r
      · exact .inl (by simp only [hw])
      · exact .inr (by simp only [hw]; rfl)
  | complete => exact absurd rfl he
  | resetInput => exact ⟨_, rfl, .inl rfl⟩

end Hidden

/-- Settles O45: the two steps leave the same state, or states that differ in the hidden registers
alone. -/
theorem hiddenRegistersStayHidden : Obligations.HiddenRegistersStayHidden := by
  intro s n g a e rest hev he
  obtain ⟨t, ht, hu⟩ := runEvent_withHidden { s with events := rest } n g a he
  have hev' : ({ s with modulus := n, genState := g, seedAcc := a } : State).events = e :: rest := hev
  rw [step_cons hev, step_cons hev']
  obtain hu | hu := hu
  · exact ⟨t, t, ht, hu, fun _ => rfl, rfl, rfl, rfl⟩
  · exact ⟨t, t.withHidden n g a, ht, hu, fun _ => rfl, rfl, rfl, rfl⟩

/-! ### Reset (R48, R210, R211) -/

/-- A reset step, whichever of the two it is (R27, R210). -/
theorem step_of_resets {s : State} (h : Resets s) :
    ∃ r, step s = .next { s.performReset with events := (nextEvent s).2, resp := r } := by
  obtain he | ⟨v, hv, hw⟩ := h
  · refine ⟨s.resp, ?_⟩
    rw [step, he]
    rfl
  · refine ⟨some .ok, ?_⟩
    have hreset : s.popped.writeReg v .ctrl = s.popped.performReset := if_pos hv
    rw [step_of_hostWrites hw, hreset]
    rfl

/-- A state right after a reset is the reset state, the model's own fields apart (log 13). -/
theorem AfterReset.eq_resetOf {t : State} (h : AfterReset t) :
    t = { State.resetOf t.params with
      events := t.events, resp := t.resp, draws := t.draws, modelFault := t.modelFault } := by
  obtain ⟨p, rfl⟩ | ⟨s, hs, hstep⟩ := h
  · rfl
  · obtain ⟨r, hr⟩ := step_of_resets hs
    obtain rfl : _ = t := by simpa [hr] using hstep
    rfl

/-- Settles O48: the state is the reset state, the model's own fields apart. -/
theorem resetValues : Obligations.ResetValues := by
  intro t h
  rw [h.eq_resetOf]
  refine ⟨rfl, rfl, rfl, rfl, rfl, rfl, rfl, rfl, rfl, rfl, rfl, rfl, rfl, rfl, fun j => ?_,
    fun r => ?_, rfl, rfl⟩
  · simp [BufWord.unwritten]
  · simp [BufWord.unwritten]

/-- Settles O49: both kinds of reset step perform the one reset. -/
theorem bothResetsAreTheSame : Obligations.BothResetsAreTheSame := by
  intro s h
  obtain ⟨r, hr⟩ := step_of_resets h
  exact ⟨_, hr, rfl⟩

/-- Settles O50: MOD_VALID's writers are LOAD_MODULUS and a reset, and a reset leaves it 0. -/
theorem nextBitsAfterResetFails : Obligations.NextBitsAfterResetFails := by
  refine ⟨fun t h => ?_, fun s c hc hm => ?_, fun s t hm h ht => ?_⟩
  · rw [h.eq_resetOf]
    exact ⟨rfl, rfl, rfl, rfl, rfl⟩
  · have hc' : ¬ 32 < immValue c := Nat.not_lt.2 hc
    rw [exec, execNextBits, if_neg hc', if_neg (by simp [hm])]
    rfl
  · obtain ⟨-, -, -, hwriters, -⟩ := onlyTheNamedWritersWrite s t h
    obtain hc | hr := hwriters (.inr (by simp [hm, ht]))
    · exact hc
    · obtain ⟨r, hstep⟩ := step_of_resets hr
      obtain rfl : _ = t := by simpa [hstep] using h
      simp at ht

end Sys2Proof

/-! PROOF. The statements of 20_memory.md: accesses the host port refuses (R62), reads (R65), and the
operands of a pending command (R72). -/

namespace Sys2Proof

open Machine

/-! ### Refused accesses and reads (R62, R65) -/

/-- The accesses of R62 that select no register. -/
theorem selectReg_eq_none_iff {p : Params} {width addr : Nat} :
    selectReg p width addr = none ↔
      width ≠ 32 ∨ addr < p.base ∨ p.base + 0x2000 ≤ addr ∨ (addr - p.base) % 4 ≠ 0 := by
  rw [selectReg, windowBytes, ite_eq_right_iff]
  simp only [reduceCtorEq, imp_false]
  omega

theorem busRead_of_selectReg_eq_none {s : State} {width addr : Nat}
    (h : selectReg s.params width addr = none) : s.busRead width addr = s.respond .busError := by
  simp only [State.busRead, h]

theorem busWrite_of_selectReg_eq_none {s : State} {width addr : Nat} (v : Word)
    (h : selectReg s.params width addr = none) :
    s.busWrite width addr v = s.respond .busError := by
  simp only [State.busWrite, h]

/-- Settles O35: the access selects no register, so the port answers with the bus error alone. -/
theorem unsupportedAccessesAreRefused : Obligations.UnsupportedAccessesAreRefused := by
  intro s width addr v rest hbad hev
  have hsel : selectReg ({ s with events := rest } : State).params width addr = none :=
    selectReg_eq_none_iff.2 hbad
  obtain hev | hev := hev
  · rw [step_cons hev, runEvent, busRead_of_selectReg_eq_none hsel]
    rfl
  · rw [step_cons hev, runEvent, busWrite_of_selectReg_eq_none v hsel]
    rfl

/-- Settles O36: the step is the read, and `State.busRead_frame` says what a read leaves. -/
theorem readsHaveNoSideEffect : Obligations.ReadsHaveNoSideEffect := by
  intro s width addr rest hev
  obtain ⟨r, n, hr⟩ := State.busRead_frame width addr { s with events := rest }
  exact ⟨r, n, by rw [step_cons hev, runEvent, hr]⟩

/-! ### The operands of a pending command (R72) -/

/-- Settles O12: acceptance and the buffer writes need an idle block (R101, R106), and of the other
steps only a completion and a reset write what a command reads. -/
theorem operandsFrozenWhilePending : Obligations.OperandsFrozenWhilePending := by
  intro s t hpend hstep hcompletes hresets
  cases stepTo_of_step hstep with
  | reset _ h => exact absurd h hresets
  | accept _ hidle => exact absurd hidle hpend
  | storeRow _ _ hidle => exact absurd hidle hpend
  | storeWord _ _ hidle => exact absurd hidle hpend
  | error _ _ h => exact absurd h hcompletes
  | command _ _ h => exact absurd h.completesAny hcompletes
  | quiet | setIrqEn | clearStatus | drop => exact ⟨rfl, rfl, rfl, rfl, rfl, rfl, rfl, rfl, rfl⟩

end Sys2Proof

/-! PROOF. The statements of 30_encoding.md: the fields of a command word (R80), its decoding (R83,
R85) and how an illegal word ends (R84). -/

namespace Sys2Proof

open Machine

/-! ### The fields of a word (R80) -/

/-- Two words with the same OP, RSV and IMM are one word. -/
theorem word_eq_of_fields {v w : Word} (hop : opField v = opField w)
    (hrsv : rsvField v = rsvField w) (himm : immField v = immField w) : v = w := by
  rw [← word_fields v, ← word_fields w, hop, hrsv, himm]

theorem opField_wordOf (op rsv imm : Nat) : opField (wordOf op rsv imm) = BitVec.ofNat 8 op := by
  rw [opField, wordOf, BitVec.append_assoc]
  exact BitVec.extractLsb'_append_eq_left

theorem rsvField_wordOf (op rsv imm : Nat) : rsvField (wordOf op rsv imm) = BitVec.ofNat 16 rsv := by
  ext i hi
  simp only [rsvField, wordOf, BitVec.getElem_extractLsb', BitVec.getLsbD_append]
  simp [hi, BitVec.getLsbD_eq_getElem]

theorem immField_wordOf (op rsv imm : Nat) : immField (wordOf op rsv imm) = BitVec.ofNat 8 imm :=
  BitVec.extractLsb'_append_eq_right

/-! ### Opcodes and operands (R81, R83) -/

/-- An OP value that is not reserved is an opcode's own. -/
theorem Opcode.exists_field_toNat {op : Nat} (h : op < 7) : ∃ o : Opcode, o.field.toNat = op := by
  interval_cases op
  exacts [⟨.nop, rfl⟩, ⟨.loadModulus, rfl⟩, ⟨.seedClear, rfl⟩, ⟨.seedAbsorb, rfl⟩,
    ⟨.seedCommit, rfl⟩, ⟨.nextBits, rfl⟩, ⟨.rank, rfl⟩]

/-- The OP values from 7 up are reserved. -/
theorem Opcode.ofField_eq_none {b : Byte} (h : 7 ≤ b.toNat) : Opcode.ofField b = none := by
  cases ho : Opcode.ofField b with
  | none => rfl
  | some o =>
    rw [← Opcode.field_of_ofField ho] at h
    cases o <;> exact absurd h (by decide)

theorem Opcode.takesImm_eq_false_iff (o : Opcode) :
    o.takesImm = false ↔
      o.field.toNat = 0 ∨ o.field.toNat = 1 ∨ o.field.toNat = 2 ∨ o.field.toNat = 4 := by
  cases o <;> decide

/-- Which operands are illegal, by OP. -/
theorem Opcode.wf_instr_eq_false_iff (o : Opcode) (imm : Byte) :
    (o.instr imm).wf = false ↔
      (o.field.toNat = 5 ∧ 32 < imm.toNat) ∨
        (o.field.toNat = 6 ∧ (imm.toNat = 0 ∨ 32 < imm.toNat)) := by
  cases o <;> simp [Opcode.instr, Instr.wf, Opcode.field, imp_iff_not_or]

/-- The operand of the command an opcode and an IMM field make: IMM, where R85's check of it passed. -/
theorem Opcode.imm_instr {o : Opcode} {imm : Byte} (h : o.takesImm = false → imm = 0) :
    (o.instr imm).imm = imm := by
  cases o with
  | seedAbsorb | nextBits | rank => rfl
  | nop | loadModulus | seedClear | seedCommit => exact (h rfl).symm

/-! ### Decoding (R85) -/

theorem decode_of_ofField_none {w : Word} (h : Opcode.ofField (opField w) = none) :
    decode w = .error .badOpcode := by
  simp only [decode, h]

/-- The checks that are left when OP is defined. -/
theorem decode_of_ofField {w : Word} {o : Opcode} (h : Opcode.ofField (opField w) = some o) :
    decode w =
      if rsvField w ≠ 0 then .error .reservedBits
      else if o.takesImm = false ∧ immField w ≠ 0 then .error .reservedBits
      else if (o.instr (immField w)).wf = false then .error .badArg
      else .valid (o.instr (immField w)) := by
  simp only [decode, h]

/-- A word that decodes to a command has passed every check. -/
theorem decode_valid {w : Word} {i : Instr} (h : decode w = .valid i) :
    ∃ o, Opcode.ofField (opField w) = some o ∧ rsvField w = 0 ∧
      (o.takesImm = false → immField w = 0) ∧ i = o.instr (immField w) ∧ i.wf = true := by
  cases ho : Opcode.ofField (opField w) with
  | none => simp [decode_of_ofField_none ho] at h
  | some o =>
    rw [decode_of_ofField ho] at h
    split at h
    · cases h
    next hrsv =>
    split at h
    · cases h
    next himm =>
    split at h
    · cases h
    next hwf =>
    cases h
    exact ⟨o, rfl, not_not.1 hrsv, fun ht => by_contra fun hi => himm ⟨ht, hi⟩, rfl,
      Bool.eq_true_of_not_eq_false hwf⟩

/-- The fields of a command's word are the command's. -/
theorem Laws.Encoding.statement (i : Instr) : Laws.Encoding.Statement i := by
  cases i with
  | nop => exact nop
  | loadModulus => exact loadModulus
  | seedClear => exact seedClear
  | seedAbsorb b => exact seedAbsorb b
  | seedCommit => exact seedCommit
  | nextBits c => exact nextBits c
  | rank d => exact rank d

/-- Settles O2: the word's fields pass the checks of OP, RSV and an unused IMM, so that the operand's
range alone decides. -/
theorem decodeEncodeRoundTrip : Obligations.DecodeEncodeRoundTrip := by
  intro i
  obtain ⟨hop, hrsv, himm, hzero⟩ := Laws.Encoding.statement i
  have hunused : ¬ (i.opcode.takesImm = false ∧ i.imm ≠ 0) := fun ⟨ht, hi⟩ => hi (hzero ht)
  rw [decode_of_ofField hop, if_neg (not_not.2 hrsv), himm, if_neg hunused,
    Opcode.instr_opcode_imm]
  cases i.wf <;> rfl

/-- Settles O1: a reserved OP is none of the map's, and for a defined one each check reads its
field. -/
theorem decodeChecksInOrder : Obligations.DecodeChecksInOrder := by
  intro op rsv imm hop hrsv himm
  have hopNat : (BitVec.ofNat 8 op).toNat = op := Nat.mod_eq_of_lt hop
  have himmNat : (BitVec.ofNat 8 imm).toNat = imm := Nat.mod_eq_of_lt himm
  have hrsvNat : (BitVec.ofNat 16 rsv).toNat = rsv := Nat.mod_eq_of_lt hrsv
  have hrsv0 : BitVec.ofNat 16 rsv ≠ 0 ↔ rsv ≠ 0 := by
    rw [← BitVec.toNat_ne_iff_ne, hrsvNat]; rfl
  have himm0 : BitVec.ofNat 8 imm ≠ 0 ↔ imm ≠ 0 := by
    rw [← BitVec.toNat_ne_iff_ne, himmNat]; rfl
  by_cases h7 : 7 ≤ op
  · rw [if_pos h7]
    exact decode_of_ofField_none (by
      rw [opField_wordOf]; exact Opcode.ofField_eq_none (by rwa [hopNat]))
  · obtain ⟨o, rfl⟩ := Opcode.exists_field_toNat (Nat.lt_of_not_le h7)
    have ho : Opcode.ofField (opField (wordOf o.field.toNat rsv imm)) = some o := by
      rw [opField_wordOf, BitVec.ofNat_toNat, BitVec.setWidth_eq, Opcode.ofField_field]
    rw [if_neg h7, decode_of_ofField ho]
    simp only [rsvField_wordOf, immField_wordOf, hrsv0, himm0, Opcode.takesImm_eq_false_iff,
      Opcode.wf_instr_eq_false_iff, himmNat]
    cases o <;> rfl

/-- Settles O3: the word and the command's encoding have the same three fields. -/
theorem encodeDecodeRoundTrip : Obligations.EncodeDecodeRoundTrip := by
  intro w i h
  obtain ⟨o, ho, hrsv, himm, rfl, hwf⟩ := decode_valid h
  refine ⟨?_, hwf⟩
  rw [encode, Opcode.opcode_instr, Opcode.imm_instr himm, Opcode.field_of_ofField ho]
  exact word_eq_of_fields (opField_enc _ _) (by rw [rsvField_enc, hrsv]) (immField_enc _ _)

/-- Settles O4: eight words, each decoded. -/
theorem writtenOutWordsDecode : Obligations.WrittenOutWordsDecode := by
  unfold Obligations.WrittenOutWordsDecode
  decide

/-! ### Illegal words (R84) -/

section IllegalWords

variable {op rsv imm : Nat} (hop : op < 256) (hrsv : rsv < 65536) (himm : imm < 256)

include hop hrsv himm

theorem decode_wordOf_badOpcode (h : 7 ≤ op) : decode (wordOf op rsv imm) = .error .badOpcode := by
  rw [decodeChecksInOrder op rsv imm hop hrsv himm, if_pos h]

theorem decode_wordOf_reservedBits (h7 : op < 7)
    (h : rsv ≠ 0 ∨ ((op = 0 ∨ op = 1 ∨ op = 2 ∨ op = 4) ∧ imm ≠ 0)) :
    decode (wordOf op rsv imm) = .error .reservedBits := by
  rw [decodeChecksInOrder op rsv imm hop hrsv himm, if_neg (Nat.not_le.2 h7)]
  by_cases h0 : rsv = 0
  · rw [if_neg (not_not.2 h0), if_pos (h.resolve_left (not_not.2 h0))]
  · rw [if_pos h0]

theorem decode_wordOf_badArg (h0 : rsv = 0)
    (h : (op = 5 ∧ 32 < imm) ∨ (op = 6 ∧ (imm = 0 ∨ 32 < imm))) :
    decode (wordOf op rsv imm) = .error .badArg := by
  rw [decodeChecksInOrder op rsv imm hop hrsv himm, if_neg (by omega), if_neg (by omega),
    if_neg (by omega), if_pos h]

end IllegalWords

/-- A CMD write while idle is the acceptance of its word (R101). -/
theorem step_cmdWrite_of_idle {s : State} {v : Word} {rest : List Event} (hidle : s.pend = none)
    (hev : s.events = .busWrite 32 (s.params.base + 0x0010) v :: rest) :
    step s = .next ((({ s with events := rest } : State).accept v).respond .ok) := by
  have hw (q : State) (hq : q.pend = none) : q.writeReg v .cmd = q.accept v :=
    if_neg (by simp [State.busy, hq])
  rw [step_write (r := .cmd) hev (by decide) (by decide) rfl, hw { s with events := rest } hidle]

/-- A word that does not decode, written while idle and then completed: the block is busy in between
and ends with the word's error and no other change. -/
theorem undecodable_word_completes {s : State} {v : Word} {e : ErrorCode} {rest : List Event}
    (hidle : s.pend = none)
    (hev : s.events = .busWrite 32 (s.params.base + 0x0010) v :: .complete :: rest)
    (hdec : decode v = .error e) :
    ∃ t, step s = .next t ∧ t.busy = true ∧
      step t = .next { s with
        events := rest, resp := some .ok
        pend := none, done := true, err := true, errCode := e.code } := by
  refine ⟨_, step_cmdWrite_of_idle hidle hev, rfl, ?_⟩
  rw [step_cons (e := .complete) (rest := rest) rfl, runEvent, completion_error rfl hdec]
  rfl

/-- Settles O6: each of the three kinds of word decodes to its own error. -/
theorem illegalWordsCompleteWithTheirError : Obligations.IllegalWordsCompleteWithTheirError := by
  intro s rest op rsv imm c hop hrsv himm hidle hev hill
  obtain ⟨h7, rfl⟩ | ⟨h7, hres, rfl⟩ | ⟨h0, harg, rfl⟩ := hill
  · exact undecodable_word_completes hidle hev (decode_wordOf_badOpcode hop hrsv himm h7)
  · exact undecodable_word_completes hidle hev
      (decode_wordOf_reservedBits hop hrsv himm h7 hres)
  · exact undecodable_word_completes hidle hev (decode_wordOf_badArg hop hrsv himm h0 harg)

/-! ### Every step goes on (R183) -/

/-- Every command answers a next state: none of its branches stops. -/
theorem exec_goes (i : Instr) (s : State) : ∃ t, exec i s = .next t := by
  cases i with
  | nop | loadModulus | seedClear => exact ⟨_, rfl⟩
  | seedAbsorb b =>
    simp only [exec, execSeedAbsorb]
    split <;> exact ⟨_, rfl⟩
  | seedCommit =>
    simp only [exec, execSeedCommit]
    split
    · split <;> exact ⟨_, rfl⟩
    · exact ⟨_, rfl⟩
  | nextBits c =>
    simp only [exec, execNextBits]
    split
    · exact ⟨_, rfl⟩
    · split
      · split <;> exact ⟨_, rfl⟩
      · exact ⟨_, rfl⟩
  | rank d =>
    simp only [exec, execRank]
    split <;> exact ⟨_, rfl⟩

/-- The completion step goes on, whatever is pending (R104). -/
theorem completion_goes (s : State) : ∃ t, completion s = .next t := by
  cases hp : s.pend with
  | none => exact ⟨s, by simp only [completion, hp]⟩
  | some w =>
    cases hd : decode w with
    | error c => exact ⟨_, completion_error hp hd⟩
    | valid i => rw [completion_valid hp hd]; exact exec_goes i s

theorem step_goes (s : State) : Goes s := by
  unfold Goes step
  cases (nextEvent s).1 with
  | complete => exact completion_goes _
  | busRead | busWrite | resetInput => exact ⟨_, rfl⟩

/-- Settles O55: transactions and resets answer a next state, and so does every completion. -/
theorem everyStepGoesOn : Obligations.EveryStepGoesOn :=
  fun s => ⟨step_goes s, fun t _ => step_goes t⟩

end Sys2Proof

/-! PROOF. The statements of 40_command_lifecycle.md: acceptance (R101), the completion step (R102-R105),
dropped writes (R106) and NOP (R108), with the interrupts they raise (R185, R190). -/

namespace Sys2Proof

open Machine

/-! ### A pending command comes to its end (R103) -/

/-- Settles O11, by induction on the schedule: a step that is neither the completion nor a reset leaves
PEND alone and takes one event off, and with nothing scheduled the completion is next. -/
theorem pendingCommandComesToItsEnd : Obligations.PendingCommandComesToItsEnd := by
  intro s w hp
  induction hev : s.events generalizing s with
  | nil => exact ⟨0, le_rfl, s, rfl, hp, .inl ⟨by rw [nextEvent_nil hev], by simp [hp]⟩⟩
  | cons e rest ih =>
    by_cases hend : CompletesAny s ∨ Resets s
    · exact ⟨0, Nat.zero_le _, s, rfl, hp, hend⟩
    · obtain ⟨hcompletes, hresets⟩ := not_or.1 hend
      obtain ⟨t, ht⟩ := step_goes s
      obtain ⟨hpend, -⟩ := operandsFrozenWhilePending s t (by simp [hp]) ht hcompletes hresets
      have hevents : t.events = rest := by rw [(step_next_events_params ht).1, nextEvent_cons hev]
      obtain ⟨k, hk, u, hrun, hu⟩ := ih t (hpend.trans hp) hevents
      exact ⟨k + 1, Nat.succ_le_succ hk, u, (core_run_succ k ht).trans hrun, hu⟩

/-! ### Writes while busy (R106) -/

/-- The registers whose writes need an idle block: while busy they are dropped (R106). -/
def Machine.Reg.idleOnly : Reg → Bool
  | .cmd | .matrix _ | .opbuf _ => true
  | _ => false

theorem writeReg_of_busy {s : State} {r : Reg} (v : Word) (hr : r.idleOnly = true)
    (hp : s.pend ≠ none) : s.writeReg v r = s.dropWrite := by
  have hbusy : s.busy = true := Option.isSome_iff_ne_none.2 hp
  cases r with
  | cmd | matrix | opbuf => exact if_pos hbusy
  | _ => cases hr

/-- A write that is not dropped while busy does not depend on PEND. -/
theorem writeReg_pend_none {r : Reg} (s : State) (v : Word) (hr : r.idleOnly = false) :
    ({ s with pend := none } : State).writeReg v r = { s.writeReg v r with pend := none } := by
  cases r with
  | cmd | matrix | opbuf => cases hr
  | ctrl =>
    simp only [State.writeReg]
    split <;> rfl
  | _ => rfl

/-- The offsets of the registers that need an idle block (R22). -/
theorem ofOffset_idleOnly_iff {nw off : Nat} (ha : off % 4 = 0) :
    (Reg.ofOffset nw off).idleOnly = true ↔
      off = 0x0010 ∨ (∃ j < nw, off = 0x1000 + 4 * j) ∨ ∃ r < 32, off = 0x0100 + 4 * r := by
  constructor
  · intro h
    by_cases hcmd : off = 0x0010
    · exact .inl hcmd
    by_cases hmatrix : 0x0100 ≤ off ∧ off < 0x0180
    · exact .inr (.inr ⟨(off - 0x0100) / 4, by omega, by omega⟩)
    by_cases hopbuf : 0x1000 ≤ off ∧ off < 0x1000 + 4 * nw
    · exact .inr (.inl ⟨(off - 0x1000) / 4, by omega, by omega⟩)
    · unfold Reg.ofOffset at h
      split_ifs at h <;> cases h
  · rintro (rfl | ⟨j, hj, rfl⟩ | ⟨r, hr, rfl⟩)
    · rfl
    · rw [ofOffset_opbuf hj]; rfl
    · rw [ofOffset_matrix nw hr]; rfl

/-- Settles O8: the offsets named are those of the registers that need an idle block; every other
register's write, and every refused access, does not depend on PEND. -/
theorem busyWritesAreDropped : Obligations.BusyWritesAreDropped := by
  intro s w v off rest hl hp hev
  have hnw := hl.nw_le
  refine ⟨fun hoff => ?_, fun hoff => ?_⟩
  · have hlt : off < 0x2000 := by omega
    have ha : off % 4 = 0 := by omega
    have hbusy : ({ s with events := rest } : State).pend ≠ none := by simp [hp]
    rw [step_write hev hlt ha rfl, writeReg_of_busy v ((ofOffset_idleOnly_iff ha).2 hoff) hbusy]
    rfl
  · by_cases hsel : off < 0x2000 ∧ off % 4 = 0
    · obtain ⟨hlt, ha⟩ := hsel
      have hr : (Reg.ofOffset s.params.nw off).idleOnly = false :=
        Bool.eq_false_of_not_eq_true fun h => hoff ((ofOffset_idleOnly_iff ha).1 h)
      exact ⟨_, _, step_write hev hlt ha rfl,
        step_write (s := { s with pend := none }) hev hlt ha rfl,
        congrArg (State.respond .ok) (writeReg_pend_none { s with events := rest } v hr).symm⟩
    · have hbad : (32 ≠ 32 ∨ s.params.base + off < s.params.base ∨
          s.params.base + 0x2000 ≤ s.params.base + off ∨
          (s.params.base + off - s.params.base) % 4 ≠ 0) := by omega
      exact ⟨_, _, unsupportedAccessesAreRefused s 32 _ v rest hbad (.inr hev),
        unsupportedAccessesAreRefused { s with pend := none } 32 _ v rest hbad (.inr hev), rfl⟩

/-! ### Failed commands (R104, R105, R183) -/

/-- A command that reports an error is the one operation `State.fail`, and LOAD_MODULUS alone may have
consumed unwritten words before it. -/
theorem exec_next_fails {i : Instr} {s t : State} (h : exec i s = .next t) (herr : t.err = true) :
    ∃ c, t = s.fail c ∨
      (i = .loadModulus ∧ s.opbuf.allWritten s.params.nw = false ∧
        t = (s.consume .unwrittenOpbuf s.opbuf s.params.nw).fail c) := by
  cases i with
  | nop => obtain rfl := execNop_next h; cases herr
  | loadModulus =>
    obtain ⟨-, rfl⟩ | ⟨-, rfl⟩ := execLoadModulus_next h
    · cases hw : s.opbuf.allWritten s.params.nw with
      | true => exact ⟨_, .inl (by rw [s.consume_written hw])⟩
      | false => exact ⟨_, .inr ⟨rfl, rfl, rfl⟩⟩
    · cases herr
  | seedClear => obtain rfl := execSeedClear_next h; cases herr
  | seedAbsorb b =>
    obtain ⟨-, rfl⟩ | ⟨-, rfl⟩ := execSeedAbsorb_next h
    · cases herr
    · exact ⟨_, .inl rfl⟩
  | seedCommit =>
    obtain ⟨-, -, rfl⟩ | ⟨-, -, rfl⟩ | ⟨-, rfl⟩ := execSeedCommit_next h
    · cases herr
    · exact ⟨_, .inl rfl⟩
    · exact ⟨_, .inl rfl⟩
  | nextBits c =>
    obtain ⟨-, rfl⟩ | ⟨-, -, -, rfl⟩ | ⟨-, -, -, rfl⟩ | ⟨-, -, rfl⟩ := execNextBits_next h
    · exact ⟨_, .inl rfl⟩
    · cases herr
    · exact ⟨_, .inl rfl⟩
    · exact ⟨_, .inl rfl⟩
  | rank d =>
    obtain ⟨-, rfl⟩ | ⟨-, -, rfl⟩ := execRank_next h
    · exact ⟨_, .inl rfl⟩
    · cases herr

/-- The step that completes a command is the completion, on the state with its event taken off. -/
theorem CompletesAny.step_eq {s : State} (h : CompletesAny s) : step s = completion s.popped := by
  rw [step, h.1]
  rfl

/-- A completion that reports an error is the one operation `State.fail`, after the words that
LOAD_MODULUS consumed. -/
theorem CompletesAny.step_fails {s t : State} (hc : CompletesAny s) (h : step s = .next t)
    (herr : t.err = true) :
    ∃ c, t = s.popped.fail c ∨
      (Completes .loadModulus s ∧ (∃ j < s.params.nw, (s.opbuf.word j).written = false) ∧
        t = (s.popped.consume .unwrittenOpbuf s.opbuf s.params.nw).fail c) := by
  rw [hc.step_eq] at h
  obtain ⟨hnone, -⟩ | ⟨w, c, -, -, rfl⟩ | ⟨w, i, hw, hd, he⟩ := completion_next h
  · exact absurd hnone hc.2
  · exact ⟨c, .inl rfl⟩
  · obtain ⟨c, rfl | ⟨rfl, hunwritten, rfl⟩⟩ := exec_next_fails he herr
    · exact ⟨c, .inl rfl⟩
    · exact ⟨c, .inr ⟨⟨hc.1, w, hw, hd⟩, Buffer.allWritten_eq_false_iff.1 hunwritten, rfl⟩⟩

/-- Settles O9: `State.fail` writes the completion fields alone, and consuming words moves only the
model's own. -/
theorem failedCommandsWriteNothingElse : Obligations.FailedCommandsWriteNothingElse := by
  intro s t hc h herr
  obtain ⟨c, ht⟩ := hc.step_fails h herr
  have ⟨hne, hle⟩ := c.code_range
  have hpos : 1 ≤ c.code.toNat := Nat.pos_of_ne_zero fun h0 => hne (BitVec.eq_of_toNat_eq h0)
  obtain rfl | ⟨hlm, hunwritten, rfl⟩ := ht
  · exact ⟨hpos, hle, by simp, rfl⟩
  · exact ⟨hpos, hle, fun _ => ⟨hlm, hunwritten⟩, rfl⟩

/-! ### Interrupts (R185, R190) -/

/-- Every completion sets DONE and leaves IRQ_EN alone (R104). -/
theorem CompletesAny.step_sets_done {s t : State} (hc : CompletesAny s) (h : step s = .next t) :
    t.done = true ∧ t.irqEn = s.irqEn := by
  rw [hc.step_eq] at h
  obtain ⟨hnone, -⟩ | ⟨w, c, -, -, rfl⟩ | ⟨w, i, -, -, he⟩ := completion_next h
  · exact absurd hnone hc.2
  · exact ⟨rfl, rfl⟩
  · obtain ⟨-, hdone, hirq, -⟩ := exec_next_frame he
    exact ⟨hdone, hirq⟩

/-- A write dropped while busy sets OVERRUN alone (R106). -/
theorem HostWrites.step_of_busy {s : State} {r : Reg} {v : Word} (h : HostWrites r v s)
    (hr : r.idleOnly = true) (hp : s.pend ≠ none) :
    step s = .next (s.popped.dropWrite.respond .ok) := by
  rw [step_of_hostWrites h, writeReg_of_busy (s := s.popped) v hr hp]

/-- Settles O46: a completion sets DONE, a dropped write OVERRUN, and the STATUS write clears both. -/
theorem interruptFollowsCompletionAndOverrun : Obligations.InterruptFollowsCompletionAndOverrun := by
  refine ⟨fun s t hen hc h => ?_, fun s t v hen hp hw h => ?_, fun s t v h1 h3 hw h => ?_⟩
  · obtain ⟨hdone, hirq⟩ := hc.step_sets_done h
    simp [State.irq, hdone, hirq, hen]
  · obtain ⟨r, hr, hw⟩ : ∃ r : Reg, r.idleOnly = true ∧ HostWrites r v s := by
      obtain hw | ⟨k, hw⟩ | ⟨j, hw⟩ := hw
      exacts [⟨_, rfl, hw⟩, ⟨_, rfl, hw⟩, ⟨_, rfl, hw⟩]
    obtain rfl : _ = t := by simpa [hw.step_of_busy hr hp] using h
    simp [State.irq, hen]
  · have hstatus : s.popped.writeReg v .status = s.popped.clearStatus v := rfl
    obtain rfl : _ = t := by simpa [step_of_hostWrites hw, hstatus] using h
    simp [State.irq, h1, h3]

/-! ### Completion, acceptance and NOP (R101, R104, R108) -/

/-- Settles O5: scheduled or not, the next step is the completion, which executes the command. -/
theorem stepRunsPendingCommand : Obligations.StepRunsPendingCommand := by
  intro s w i rest hp hd hev
  have hnext : nextEvent s = (.complete, rest) := by
    obtain hev | ⟨hev, rfl⟩ := hev
    · exact nextEvent_cons hev
    · exact nextEvent_nil hev
  have hc : CompletesAny s := ⟨by rw [hnext], by simp [hp]⟩
  rw [hc.step_eq, State.popped, hnext]
  exact completion_valid hp hd

/-- Settles O7: the write is the acceptance of its word. -/
theorem idleCmdWriteAccepts : Obligations.IdleCmdWriteAccepts :=
  fun _ _ _ hidle hev => step_cmdWrite_of_idle hidle hev

/-- The word of a command without an operand, with any RSV and IMM (R85). -/
theorem decode_wordOf_of_not_takesImm {o : Opcode} {rsv imm : Nat} (ho : o.takesImm = false)
    (hrsv : rsv < 65536) (himm : imm < 256) :
    decode (wordOf o.field.toNat rsv imm) =
      if rsv = 0 ∧ imm = 0 then .valid (o.instr 0) else .error .reservedBits := by
  split
  next hzero =>
    obtain ⟨rfl, rfl⟩ := hzero
    revert ho
    cases o <;> decide
  next hzero =>
    have hop := o.takesImm_eq_false_iff.1 ho
    exact decode_wordOf_reservedBits (by omega) hrsv himm (by omega) (by omega)

/-- Settles O13: NOP takes no operand, and its one operation is `State.succeed`. -/
theorem nopRule : Obligations.NopRule :=
  ⟨rfl, fun _ _ hrsv himm => decode_wordOf_of_not_takesImm (o := .nop) rfl hrsv himm, fun _ => rfl⟩

end Sys2Proof

/-! PROOF. The statements of 41_bbs_generator.md: the commands of the BBS unit one by one (R122-R136),
two NEXT_BITS commands in a row (R139), and what the generator depends on (R138, R143). -/

namespace Sys2Proof

open Machine

/-! ### The words of commands with an operand (R80, R85) -/

/-- The word of a command with an operand is its OP's word with the operand put in. -/
theorem encode_instr_of_takesImm {o : Opcode} {imm : Byte} {w : Word} (ho : o.takesImm = true)
    (hw : o.field.setWidth 32 <<< 24 = w) : encode (o.instr imm) = w ||| imm.setWidth 32 := by
  have himm : (o.instr imm).imm = imm := Opcode.imm_instr fun hf => by simp [ho] at hf
  rw [encode, enc, Opcode.opcode_instr, hw, himm]

/-- The word of a command with an operand, with any RSV and IMM: RSV is checked before the operand. -/
theorem decode_wordOf_of_takesImm {o : Opcode} {rsv imm : Nat} (ho : o.takesImm = true)
    (hrsv : rsv < 65536) (himm : imm < 256) :
    decode (wordOf o.field.toNat rsv imm) =
      if rsv ≠ 0 then .error .reservedBits
      else if (o.instr (BitVec.ofNat 8 imm)).wf = false then .error .badArg
      else .valid (o.instr (BitVec.ofNat 8 imm)) := by
  have himmNat : (BitVec.ofNat 8 imm).toNat = imm := Nat.mod_eq_of_lt himm
  have hused : ¬ ((o.field.toNat = 0 ∨ o.field.toNat = 1 ∨ o.field.toNat = 2 ∨ o.field.toNat = 4) ∧
      imm ≠ 0) := by
    rw [← Opcode.takesImm_eq_false_iff, ho]
    simp
  rw [decodeChecksInOrder _ rsv imm o.field.isLt hrsv himm, if_neg hused]
  simp only [Opcode.wf_instr_eq_false_iff, himmNat]
  cases o with
  | nop | loadModulus | seedClear | seedCommit => cases ho
  | seedAbsorb | nextBits | rank => rfl

/-! ### The loop of NEXT_BITS (R136) -/

section Loop

variable (n k x : Nat)

theorem squared_eq : squared n k x = (square n)^[k] x := rfl

/-- The last iteration of the loop shifts the word and puts the last state's low bit in. -/
theorem emit_succ_snd (out : Word) :
    (emit n (k + 1) x out).2 =
      (emit n k x out).2 <<< 1 ||| BitVec.ofNat 32 ((square n)^[k + 1] x % 2) := by
  rw [emit_add, Function.iterate_succ_apply', ← emit_fst n k x out]
  rfl

/-- The loop shifts the word it starts from out to the left of the bits it emits (R139). -/
theorem emit_snd_eq_shiftLeft_or (out : Word) :
    (emit n k x out).2 = out <<< k ||| (emit n k x 0).2 := by
  induction k with
  | zero => simp [emit]
  | succ k ih =>
    rw [emit_succ_snd, ih, emit_succ_snd, BitVec.shiftLeft_or_distrib, ← BitVec.shiftLeft_add,
      BitVec.or_assoc]

/-- The word of one emitted bit. -/
theorem getLsbD_ofNat_mod_two (y j : Nat) :
    (BitVec.ofNat 32 (y % 2)).getLsbD j = decide (j = 0 ∧ y % 2 = 1) := by
  obtain h | h := Nat.mod_two_eq_zero_or_one y <;> simp [h]

/-- Bit j of the emitted word is the low bit of the state j iterations before the last (R136). -/
theorem emit_snd_getLsbD (hk : k ≤ 32) (j : Nat) :
    (emit n k x 0).2.getLsbD j = decide (j < k ∧ (square n)^[k - j] x % 2 = 1) := by
  induction k generalizing j with
  | zero => simp [emit]
  | succ k ih =>
    rw [emit_succ_snd, BitVec.getLsbD_or, getLsbD_ofNat_mod_two, BitVec.getLsbD_shiftLeft]
    cases j with
    | zero => simp
    | succ j =>
      rw [Nat.add_sub_cancel, ih (Nat.le_of_succ_le hk), Nat.add_sub_add_right]
      have hj : j < k → j + 1 < 32 := by omega
      simp +contextual [hj]

/-- From a fixed point of squaring every bit is the low bit of that state (R132). -/
theorem emit_snd_getLsbD_of_fixed {x : Nat} (hx : square n x = x) (hk : k ≤ 32) (j : Nat) :
    (emit n k x 0).2.getLsbD j = decide (j < k ∧ x % 2 = 1) := by
  rw [emit_snd_getLsbD n k x hk, Function.iterate_fixed hx]

theorem square_zero : square n 0 = 0 := Nat.zero_mod n

theorem square_one {n : Nat} (hn : 2 ≤ n) : square n 1 = 1 := Nat.mod_eq_of_lt hn

/-- All bits emitted from state 0 are 0. -/
theorem emit_snd_zero (hk : k ≤ 32) : (emit n k 0 0).2 = 0 := by
  refine BitVec.eq_of_getLsbD_eq fun j _ => ?_
  rw [emit_snd_getLsbD_of_fixed n k (square_zero n) hk]
  simp

/-- All bits emitted from state 1 are 1. -/
theorem emit_snd_one_toNat (hn : 2 ≤ n) (hk : k ≤ 32) : (emit n k 1 0).2.toNat = 2 ^ k - 1 := by
  refine Nat.eq_of_testBit_eq fun j => ?_
  rw [BitVec.testBit_toNat, emit_snd_getLsbD_of_fixed n k (square_one hn) hk,
    Nat.testBit_two_pow_sub_one]
  simp

end Loop

/-! ### What each command does (R122-R136) -/

/-- Where every OPBUF word has been written, OPBUF_VALUE is the sum of R12. -/
theorem opbufValue_eq_opbufSum {s : State} (h : s.opbuf.allWritten s.params.nw = true) :
    s.opbufValue = opbufSum s := by
  rw [State.opbufValue, State.opbufWords, wordsValue_map_range]
  refine Finset.sum_congr rfl fun j hj => ?_
  rw [Buffer.value_written _ (Buffer.allWritten_iff.1 h j (Finset.mem_range.1 hj))]

/-- The state a successful LOAD_MODULUS of `v` leaves (R122). -/
def Machine.State.modulusLoaded (v : Nat) (s : State) : State :=
  ({ s with
      modulus := v, modValid := true, genState := 0, seeded := false
      seedAcc := 0, seedNonempty := false } : State).succeed

/-- The state a successful NEXT_BITS of `k` bits leaves (R136). -/
def Machine.State.bitsEmitted (k : Nat) (s : State) : State :=
  ({ s with
      genState := (emit s.modulus k s.genState 0).1
      bits := (emit s.modulus k s.genState 0).2 } : State).succeed

section Exec

variable {s : State}

@[simp] theorem Machine.State.bitsEmitted_genState (k : Nat) :
    (s.bitsEmitted k).genState = (square s.modulus)^[k] s.genState :=
  emit_fst s.modulus k s.genState 0

theorem Machine.State.bitsEmitted_bits (k : Nat) :
    (s.bitsEmitted k).bits = (emit s.modulus k s.genState 0).2 := rfl

@[simp] theorem Machine.State.bitsEmitted_modulus (k : Nat) :
    (s.bitsEmitted k).modulus = s.modulus := rfl

/-- LOAD_MODULUS on written words consumes no free value. -/
theorem exec_loadModulus_degenerate (hw : s.opbuf.allWritten s.params.nw = true)
    (h : opbufSum s < 2) : exec .loadModulus s = .next (s.fail .degenerateModulus) := by
  rw [exec, execLoadModulus, State.consume_written s hw, opbufValue_eq_opbufSum hw, if_pos h]

theorem exec_loadModulus (hw : s.opbuf.allWritten s.params.nw = true) (h : 2 ≤ opbufSum s) :
    exec .loadModulus s = .next (s.modulusLoaded (opbufSum s)) := by
  rw [exec, execLoadModulus, State.consume_written s hw, opbufValue_eq_opbufSum hw,
    if_neg (Nat.not_lt.2 h)]
  rfl

theorem exec_seedAbsorb_noModulus (b : Byte) (hm : s.modValid = false) :
    exec (.seedAbsorb b) s = .next (s.fail .noModulus) :=
  if_neg (Bool.eq_false_iff.1 hm)

theorem exec_seedCommit_noModulus (hm : s.modValid = false) :
    exec .seedCommit s = .next (s.fail .noModulus) :=
  if_neg (Bool.eq_false_iff.1 hm)

theorem exec_seedCommit_emptySeed (hm : s.modValid = true) (hn : s.seedNonempty = false) :
    exec .seedCommit s = .next (s.fail .emptySeed) :=
  (if_pos hm).trans (if_neg (Bool.eq_false_iff.1 hn))

variable {c : Byte}

theorem exec_nextBits_badArg (hc : 32 < c.toNat) :
    exec (.nextBits c) s = .next (s.fail .badArg) :=
  if_pos hc

theorem exec_nextBits_noModulus (hc : c.toNat ≤ 32) (hm : s.modValid = false) :
    exec (.nextBits c) s = .next (s.fail .noModulus) :=
  (if_neg (Nat.not_lt.2 hc)).trans (if_neg (Bool.eq_false_iff.1 hm))

theorem exec_nextBits_unseeded (hc : c.toNat ≤ 32) (hm : s.modValid = true)
    (hs : s.seeded = false) : exec (.nextBits c) s = .next (s.fail .unseeded) :=
  (if_neg (Nat.not_lt.2 hc)).trans ((if_pos hm).trans (if_neg (Bool.eq_false_iff.1 hs)))

theorem exec_nextBits (hc : c.toNat ≤ 32) (hm : s.modValid = true) (hs : s.seeded = true) :
    exec (.nextBits c) s = .next (s.bitsEmitted c.toNat) :=
  (if_neg (Nat.not_lt.2 hc)).trans ((if_pos hm).trans (if_pos hs))

theorem exec_rank_badArg {d : Byte} (hd : d.toNat = 0 ∨ 32 < d.toNat) :
    exec (.rank d) s = .next (s.fail .badArg) :=
  if_pos hd

end Exec

/-- Settles O16: SEED_CLEAR takes no operand and checks nothing. -/
theorem seedClearRule : Obligations.SeedClearRule :=
  ⟨rfl, fun _ _ hrsv himm => decode_wordOf_of_not_takesImm (o := .seedClear) rfl hrsv himm,
    fun _ => rfl⟩

/-- Settles O14: with every word written OPBUF_VALUE is the sum of R12, and it decides. -/
theorem loadModulusRule : Obligations.LoadModulusRule :=
  ⟨rfl, fun _ _ hrsv himm => decode_wordOf_of_not_takesImm (o := .loadModulus) rfl hrsv himm,
    fun _ hw => ⟨exec_loadModulus_degenerate (Buffer.allWritten_iff.2 hw),
      exec_loadModulus (Buffer.allWritten_iff.2 hw)⟩⟩

/-- Settles O17: every operand of SEED_ABSORB is legal, and MOD_VALID is its only check. -/
theorem seedAbsorbRule : Obligations.SeedAbsorbRule := by
  refine ⟨fun _ => encode_instr_of_takesImm (o := .seedAbsorb) rfl (by decide),
    fun rsv imm hrsv himm => ?_, fun s b => ⟨exec_seedAbsorb_noModulus b, exec_seedAbsorb b⟩⟩
  have hdec := decode_wordOf_of_takesImm (o := .seedAbsorb) rfl hrsv himm
  rw [ite_not] at hdec
  exact hdec

/-- Settles O18: MOD_VALID is checked before SEED_NONEMPTY. -/
theorem seedCommitRule : Obligations.SeedCommitRule :=
  ⟨rfl, fun _ _ hrsv himm => decode_wordOf_of_not_takesImm (o := .seedCommit) rfl hrsv himm,
    fun _ => ⟨exec_seedCommit_noModulus, exec_seedCommit_emptySeed, exec_seedCommit⟩⟩

/-- Settles O19: the state of the loop is the iterated square, and bit `count-1-k` of its word is the
low bit after `k+1` squarings. -/
theorem nextBitsRule : Obligations.NextBitsRule := by
  refine ⟨fun _ => encode_instr_of_takesImm (o := .nextBits) rfl (by decide),
    fun rsv imm hrsv himm => ?_, fun s c hc =>
    ⟨exec_nextBits_noModulus hc, exec_nextBits_unseeded hc, fun hm hs =>
      ⟨(emit s.modulus c.toNat s.genState 0).2, ?_, fun k hk => ?_, fun j hj => ?_⟩⟩⟩
  · have hillegal : ((Opcode.nextBits.instr (BitVec.ofNat 8 imm)).wf = false) = (32 < imm) := by
      simp [Opcode.instr, Instr.wf, Nat.mod_eq_of_lt himm]
    have hdec := decode_wordOf_of_takesImm (o := .nextBits) rfl hrsv himm
    simp only [hillegal] at hdec
    exact hdec
  · rw [exec_nextBits hc hm hs, State.bitsEmitted, emit_fst, squared_eq]
    rfl
  · have hlt : c.toNat - 1 - k < c.toNat := by omega
    have hsub : c.toNat - (c.toNat - 1 - k) = k + 1 := by omega
    rw [emit_snd_getLsbD _ _ _ hc, hsub, squared_eq]
    simp only [hlt, true_and]
  · rw [emit_snd_getLsbD _ _ _ hc]
    simp [Nat.not_lt.2 hj]

/-! ### NEXT_BITS from the states 0 and 1, and twice in a row (R132, R139) -/

/-- Settles O25: 0 and 1 are fixed points of squaring modulo N. -/
theorem statesZeroAndOneAreFixed : Obligations.StatesZeroAndOneAreFixed := by
  intro s c hc hm hs hn
  refine ⟨fun hg => ⟨_, exec_nextBits hc hm hs, ?_, ?_⟩,
    fun hg => ⟨_, exec_nextBits hc hm hs, ?_, ?_⟩⟩
  · rw [State.bitsEmitted_genState, hg, Function.iterate_fixed (square_zero _)]
  · rw [State.bitsEmitted_bits, hg, emit_snd_zero _ _ hc]
  · rw [State.bitsEmitted_genState, hg, Function.iterate_fixed (square_one hn)]
  · rw [State.bitsEmitted_bits, hg, emit_snd_one_toNat _ _ hn hc]

/-- Settles O24: the loop of `a + b` iterations is that of `b` from where that of `a` ends. -/
theorem nextBitsSplits : Obligations.NextBitsSplits := by
  intro s t u a b hab hm hs ht hu
  have hcount (c : Nat) (hc : c ≤ 32) : (BitVec.ofNat 8 c).toNat = c :=
    Nat.mod_eq_of_lt (by omega)
  have hnext (c : Nat) (hc : c ≤ 32) {q : State} (hm : q.modValid = true) (hs : q.seeded = true) :
      exec (.nextBits (BitVec.ofNat 8 c)) q = .next (q.bitsEmitted c) := by
    have h := exec_nextBits (c := BitVec.ofNat 8 c) (s := q) (by rwa [hcount c hc]) hm hs
    rwa [hcount c hc] at h
  obtain rfl : s.bitsEmitted a = t := by simpa [hnext a (by omega) hm hs] using ht
  obtain rfl : (s.bitsEmitted a).bitsEmitted b = u := by
    simpa [hnext b (by omega) (q := s.bitsEmitted a) hm hs] using hu
  refine ⟨_, hnext (a + b) hab hm hs, ?_, ?_⟩
  · simp [Nat.add_comm a b, Function.iterate_add_apply]
  · rw [State.bitsEmitted_bits, emit_add, emit_snd_eq_shiftLeft_or]
    rfl

/-! ### What the generator depends on (R138, R143) -/

/-- Settles O26: in each case of a command, the case does not depend on the changed fields and writes
none of them. -/
theorem seedAndStateAreIndependent : Obligations.SeedAndStateAreIndependent := by
  refine ⟨fun s t g f h => ?_, fun s t b g f h => ?_, fun s t c a f h => ?_⟩
  · obtain rfl := execSeedClear_next h
    rfl
  · obtain ⟨hm, rfl⟩ | ⟨hm, rfl⟩ := execSeedAbsorb_next h
    · exact exec_seedAbsorb b hm
    · exact exec_seedAbsorb_noModulus b hm
  · obtain ⟨hc, rfl⟩ | ⟨hc, hm, hs, rfl⟩ | ⟨hc, hm, hs, rfl⟩ | ⟨hc, hm, rfl⟩ := execNextBits_next h
    · exact exec_nextBits_badArg hc
    · exact exec_nextBits hc hm hs
    · exact exec_nextBits_unseeded hc hm hs
    · exact exec_nextBits_noModulus hc hm

/-- The BBS unit's part of a state: what R138 lets its commands depend on, and every other field as reset
leaves it. -/
def Machine.State.generator (s : State) : State :=
  { State.resetOf s.params with
    opbuf := s.opbuf, modulus := s.modulus, genState := s.genState, seedAcc := s.seedAcc
    modValid := s.modValid, seeded := s.seeded, seedNonempty := s.seedNonempty, bits := s.bits }

/-- Two states have the same generator when they agree on what R138 names. -/
theorem generator_eq_iff {s s' : State} :
    s.generator = s'.generator ↔
      s.bits = s'.bits ∧ s.opbuf = s'.opbuf ∧ s.modulus = s'.modulus ∧ s.genState = s'.genState ∧
      s.seedAcc = s'.seedAcc ∧ s.modValid = s'.modValid ∧ s.seeded = s'.seeded ∧
      s.seedNonempty = s'.seedNonempty ∧ s.params = s'.params := by
  simp [State.generator, State.resetOf]

/-- A command does to the BBS unit's part of a state what it does to the whole state, where a
LOAD_MODULUS draws nothing. -/
theorem exec_generator {i : Instr} {s t : State}
    (hw : i = .loadModulus → s.opbuf.allWritten s.params.nw = true) (h : exec i s = .next t) :
    ∃ u, exec i s.generator = .next u ∧ u.generator = t.generator := by
  cases i with
  | nop =>
    obtain rfl := execNop_next h
    exact ⟨_, rfl, rfl⟩
  | loadModulus =>
    obtain hlt | hge := Nat.lt_or_ge (opbufSum s) 2
    · obtain rfl := Host.Outcome.next.inj ((exec_loadModulus_degenerate (hw rfl) hlt).symm.trans h)
      exact ⟨_, exec_loadModulus_degenerate (hw rfl) hlt, rfl⟩
    · obtain rfl := Host.Outcome.next.inj ((exec_loadModulus (hw rfl) hge).symm.trans h)
      exact ⟨_, exec_loadModulus (hw rfl) hge, rfl⟩
  | seedClear =>
    obtain rfl := execSeedClear_next h
    exact ⟨_, rfl, rfl⟩
  | seedAbsorb b =>
    obtain ⟨hm, rfl⟩ | ⟨hm, rfl⟩ := execSeedAbsorb_next h
    · exact ⟨_, exec_seedAbsorb b hm, rfl⟩
    · exact ⟨_, exec_seedAbsorb_noModulus b hm, rfl⟩
  | seedCommit =>
    obtain ⟨hm, hn, rfl⟩ | ⟨hm, hn, rfl⟩ | ⟨hm, rfl⟩ := execSeedCommit_next h
    · exact ⟨_, exec_seedCommit hm hn, rfl⟩
    · exact ⟨_, exec_seedCommit_emptySeed hm hn, rfl⟩
    · exact ⟨_, exec_seedCommit_noModulus hm, rfl⟩
  | nextBits c =>
    obtain ⟨hc, rfl⟩ | ⟨hc, hm, hs, rfl⟩ | ⟨hc, hm, hs, rfl⟩ | ⟨hc, hm, rfl⟩ := execNextBits_next h
    · exact ⟨_, exec_nextBits_badArg hc, rfl⟩
    · exact ⟨_, exec_nextBits hc hm hs, rfl⟩
    · exact ⟨_, exec_nextBits_unseeded hc hm hs, rfl⟩
    · exact ⟨_, exec_nextBits_noModulus hc hm, rfl⟩
  | rank d =>
    obtain ⟨hd, rfl⟩ | ⟨h1, h32, rfl⟩ := execRank_next h
    · exact ⟨_, exec_rank_badArg hd, rfl⟩
    · exact ⟨_, exec_rank _ h1 h32, rfl⟩

/-- Commands run on two states with the same generator leave the same generator. -/
theorem ExecAll.generator_eq {is : List Instr} {s s' t t' : State}
    (hs : s.generator = s'.generator)
    (hw : .loadModulus ∈ is → s.opbuf.allWritten s.params.nw = true)
    (h : ExecAll is s t) (h' : ExecAll is s' t') : t.generator = t'.generator := by
  induction h generalizing s' with
  | nil s =>
    cases h'
    exact hs
  | @cons i _ s _ _ hi _ ih =>
    cases h' with
    | cons hi' his' =>
    obtain ⟨-, hopbuf, -, -, -, -, -, -, hparams⟩ := generator_eq_iff.1 hs
    have hw' : i = .loadModulus → s.opbuf.allWritten s.params.nw = true := fun hload =>
      hw (hload ▸ List.mem_cons_self)
    obtain ⟨q, hq, hqt⟩ := exec_generator hw' hi
    obtain ⟨q', hq', hqr⟩ := exec_generator (hopbuf ▸ hparams ▸ hw') hi'
    obtain rfl : q = q' := by simpa [hs, hq'] using hq.symm
    obtain ⟨-, -, -, -, hopbuf', hparams', -⟩ := exec_next_frame hi
    refine ih (hqt.symm.trans hqr) (fun hmem => ?_) his'
    rw [hopbuf', hparams']
    exact hw (List.mem_cons_of_mem _ hmem)

/-- Settles O27: the commands leave equal generators. -/
theorem generatorIsDeterministic : Obligations.GeneratorIsDeterministic := by
  intro is s s' t t' hp ho hn hg ha hm hs he hb hw h h'
  have heq : s.generator = s'.generator :=
    generator_eq_iff.2 ⟨hb, ho, hn, hg, ha, hm, hs, he, hp⟩
  obtain ⟨hb, -, hn, hg, ha, hm, hs, he, -⟩ :=
    generator_eq_iff.1 (h.generator_eq heq (fun hmem => Buffer.allWritten_iff.2 (hw hmem)) h')
  exact ⟨hn, hg, ha, hm, hs, he, hb⟩

end Sys2Proof

/-! PROOF. The statements of 42_gf2_rank.md: one step of either pass (R163, R164), the form the two
passes leave (R162, R168), RANK (R168), and that its count is the rank over GF(2) (R169, R170). -/

namespace Sys2Proof.Machine.Gf2

/-! ### The row that becomes the pivot row (R163-R165) -/

/-- The first element of a list sorted by `r` that `P` holds of is the `r`-least one. -/
theorem find?_eq_some_iff_of_pairwise {r : Nat → Nat → Prop} [Std.Asymm r] {P : Nat → Bool}
    {p : Nat} {l : List Nat} (hl : l.Pairwise r) :
    l.find? P = some p ↔ P p = true ∧ p ∈ l ∧ ∀ q ∈ l, r q p → P q = false := by
  induction l with
  | nil => simp
  | cons a l ih =>
    obtain ⟨ha, hl⟩ := List.pairwise_cons.1 hl
    cases hPa : P a with
    | false =>
      have hne : P p = true → p ≠ a := fun hp hpa => by simp [hpa, hPa] at hp
      rw [List.find?_cons_of_neg (by simp [hPa]), ih hl]
      simp only [List.mem_cons, forall_eq_or_imp, hPa, implies_true, true_and]
      exact and_congr_right fun hp => by simp [hne hp]
    | true =>
      rw [List.find?_cons_of_pos hPa, Option.some_inj]
      constructor
      · rintro rfl
        refine ⟨hPa, List.mem_cons_self, fun q hq hqa => ?_⟩
        obtain rfl | hq := List.mem_cons.1 hq
        · exact absurd hqa (Std.Asymm.asymm _ _ hqa)
        · exact absurd hqa (Std.Asymm.asymm _ _ (ha q hq))
      · rintro ⟨-, hp, hleast⟩
        obtain rfl | hp := List.mem_cons.1 hp
        · rfl
        · simp [hleast a List.mem_cons_self (ha p hp)] at hPa

/-- The row that a step at `i` makes its pivot row: row i itself if its pivot entry is 1, else the
first candidate with a 1 in column i. -/
def pivotRow (A : List Word) (i : Nat) (cands : List Nat) : Option Nat :=
  (i :: cands).find? fun k => entry A k i

section Step

variable {A : List Word} {d i p : Nat} {cands : List Nat}

theorem pivotRow_eq_none_iff :
    pivotRow A i cands = none ↔ ∀ k ∈ i :: cands, entry A k i = false := by
  simp [pivotRow]

/-- Row i and the candidates of the forward pass are the rows from i on, in increasing order. -/
theorem pairwise_cons_below : (i :: below d i).Pairwise (· < ·) :=
  List.pairwise_cons.2 ⟨fun _ hk => (mem_below.1 hk).1, List.pairwise_lt_range.filter _⟩

/-- Row i and the candidates of the backward pass are the rows down from i, in decreasing order. -/
theorem pairwise_cons_above : (i :: above i).Pairwise (· > ·) :=
  List.pairwise_cons.2 ⟨fun _ hk => mem_above.1 hk,
    List.pairwise_reverse.2 List.pairwise_lt_range⟩

theorem mem_cons_below {k : Nat} (hi : i < d) : k ∈ i :: below d i ↔ i ≤ k ∧ k < d := by
  rw [List.mem_cons, mem_below]
  omega

theorem mem_cons_above {k : Nat} : k ∈ i :: above i ↔ k ≤ i := by
  rw [List.mem_cons, mem_above]
  omega

theorem pivotRow_below_eq_some_iff (hi : i < d) :
    pivotRow A i (below d i) = some p ↔
      entry A p i = true ∧ (i ≤ p ∧ p < d) ∧ ∀ q, i ≤ q → q < p → entry A q i = false := by
  rw [pivotRow, find?_eq_some_iff_of_pairwise pairwise_cons_below]
  simp only [mem_cons_below hi]
  exact and_congr_right fun _ => and_congr_right fun hp =>
    ⟨fun h q hq hqp => h q ⟨hq, hqp.trans hp.2⟩ hqp, fun h q hq hqp => h q hq.1 hqp⟩

theorem pivotRow_above_eq_some_iff :
    pivotRow A i (above i) = some p ↔
      entry A p i = true ∧ p ≤ i ∧ ∀ q, p < q → q ≤ i → entry A q i = false := by
  rw [pivotRow, find?_eq_some_iff_of_pairwise pairwise_cons_above]
  simp only [mem_cons_above]
  exact and_congr_right fun _ => and_congr_right fun _ =>
    ⟨fun h q hpq hq => h q hq hpq, fun h q hq hpq => h q hpq hq⟩

theorem pivotRow_entry (h : pivotRow A i cands = some p) : entry A p i = true :=
  List.find?_some (p := fun k => entry A k i) h

theorem pivotRow_mem (h : pivotRow A i cands = some p) : p ∈ i :: cands :=
  List.mem_of_find?_eq_some h

/-! ### One step of a pass (R163, R164) -/

theorem getD_swapRows (hi : i < A.length) (hp : p < A.length) (k : Nat) :
    (swapRows A i p).getD k 0 = A.getD (Equiv.swap i p k) 0 := by
  simp only [swapRows, List.getD_eq_getElem?_getD, List.getElem?_set, List.length_set,
    Equiv.swap_apply_def]
  grind

/-- The swap of a step exchanges row i and the pivot row, which may be the same. -/
theorem getD_pivotSwap (hi : i < A.length) (hp : p < A.length) (h : pivotRow A i cands = some p)
    (k : Nat) : (pivotSwap A i cands).getD k 0 = A.getD (Equiv.swap i p k) 0 := by
  cases hii : entry A i i with
  | true =>
    obtain rfl : i = p := by simpa [pivotRow, hii] using h
    simp [pivotSwap, hii]
  | false =>
    have hfind : (cands.find? fun k => entry A k i) = some p := by simpa [pivotRow, hii] using h
    rw [pivotSwap, if_neg (by simp [hii]), hfind]
    exact getD_swapRows hi hp k

theorem getD_clearColumn (h : entry A i i = true) (k : Nat) :
    (clearColumn A i cands).getD k 0 =
      if k ∈ cands ∧ entry A k i then A.getD k 0 ^^^ A.getD i 0 else A.getD k 0 := by
  rw [clearColumn, if_pos h]
  simp only [entry, List.getD_eq_getElem?_getD, List.getElem?_mapIdx]
  cases A[k]? <;> simp

/-- A step with no 1 in column i among row i and the candidates changes nothing. -/
theorem passStep_of_pivotRow_none (h : pivotRow A i cands = none) : passStep A i cands = A := by
  have hcol := pivotRow_eq_none_iff.1 h
  have hii := hcol i List.mem_cons_self
  have hfind : (cands.find? fun k => entry A k i) = none :=
    List.find?_eq_none.2 fun k hk => by simp [hcol k (List.mem_cons_of_mem _ hk)]
  simp [passStep, pivotSwap, clearColumn, hii, hfind]

/-- A step whose candidates are all 0 in its column changes nothing. -/
theorem passStep_of_cands_zero (h : ∀ k ∈ cands, entry A k i = false) :
    passStep A i cands = A := by
  cases hii : entry A i i with
  | false =>
    exact passStep_of_pivotRow_none
      (pivotRow_eq_none_iff.2 (List.forall_mem_cons.2 ⟨hii, h⟩))
  | true =>
    have hclear : passStep A i cands = clearColumn A i cands := by simp [passStep, pivotSwap, hii]
    refine List.ext_getElem (length_passStep A i cands) fun k hk hk' => ?_
    rw [← List.getD_eq_getElem _ 0 hk, ← List.getD_eq_getElem _ 0 hk', hclear,
      getD_clearColumn hii, if_neg fun hc => by simp [h k hc.1] at hc]

variable (hlen : ∀ k ∈ i :: cands, k < A.length)

include hlen

/-- The rows of one step: row i and the pivot row are exchanged, and then the pivot row is added to
every candidate row with a 1 in column i. -/
theorem getD_passStep (h : pivotRow A i cands = some p) (k : Nat) :
    (passStep A i cands).getD k 0 =
      if k ∈ cands ∧ entry A (Equiv.swap i p k) i then A.getD (Equiv.swap i p k) 0 ^^^ A.getD p 0
      else A.getD (Equiv.swap i p k) 0 := by
  have hswap := getD_pivotSwap (hlen i List.mem_cons_self) (hlen p (pivotRow_mem h)) h
  have hentry (k : Nat) : entry (pivotSwap A i cands) k i = entry A (Equiv.swap i p k) i := by
    rw [entry, hswap, entry]
  have hii : entry (pivotSwap A i cands) i i = true := by
    rw [hentry, Equiv.swap_apply_left, pivotRow_entry h]
  rw [passStep, getD_clearColumn hii, hentry, hswap, hswap, Equiv.swap_apply_left]

/-- Row i becomes the pivot row. -/
theorem getD_passStep_pivot (hi : i ∉ cands) (h : pivotRow A i cands = some p) :
    (passStep A i cands).getD i 0 = A.getD p 0 := by
  rw [getD_passStep hlen h, if_neg (by simp [hi]), Equiv.swap_apply_left]

/-- A candidate row, or row i in the pivot row's place, is cleared in column i. -/
theorem getD_passStep_cand (hi : i ∉ cands) (h : pivotRow A i cands = some p) {k : Nat}
    (hk : k ∈ cands) {row : Word} (hrow : row = A.getD (if k = p then i else k) 0) :
    (passStep A i cands).getD k 0 = if row.getLsbD (31 - i) then row ^^^ A.getD p 0 else row := by
  have hki : k ≠ i := fun hki => hi (hki ▸ hk)
  rw [getD_passStep hlen h, Equiv.swap_apply_def, if_neg hki, entry, ← hrow]
  simp only [hk, true_and]

/-- Every other row is as it was. -/
theorem getD_passStep_other (h : pivotRow A i cands = some p) {k : Nat} (hk : k ∉ i :: cands) :
    (passStep A i cands).getD k 0 = A.getD k 0 := by
  have hki : k ≠ i := fun hki => hk (hki ▸ List.mem_cons_self)
  have hkp : k ≠ p := fun hkp => hk (hkp ▸ pivotRow_mem h)
  rw [getD_passStep hlen h, if_neg fun hc => hk (List.mem_cons_of_mem _ hc.1),
    Equiv.swap_apply_of_ne_of_ne hki hkp]

theorem entry_passStep (h : pivotRow A i cands = some p) (k c : Nat) :
    entry (passStep A i cands) k c =
      if k ∈ cands ∧ entry A (Equiv.swap i p k) i then
        entry A (Equiv.swap i p k) c ^^ entry A p c
      else entry A (Equiv.swap i p k) c := by
  rw [entry, getD_passStep hlen h]
  split
  · exact BitVec.getLsbD_xor
  · rfl

theorem entry_passStep_pivot (hi : i ∉ cands) (h : pivotRow A i cands = some p) (c : Nat) :
    entry (passStep A i cands) i c = entry A p c := by
  rw [entry, getD_passStep_pivot hlen hi h, entry]

theorem entry_passStep_other (h : pivotRow A i cands = some p) {k : Nat} (hk : k ∉ i :: cands)
    (c : Nat) : entry (passStep A i cands) k c = entry A k c := by
  rw [entry, getD_passStep_other hlen h hk, entry]

theorem entry_passStep_cand (hi : i ∉ cands) (h : pivotRow A i cands = some p) {k q : Nat}
    (hk : k ∈ cands) (hq : q = if k = p then i else k) (c : Nat) :
    entry (passStep A i cands) k c = (entry A q c ^^ (entry A q i && entry A p c)) := by
  have hrow : A.getD q 0 = A.getD (if k = p then i else k) 0 := by rw [hq]
  rw [entry, getD_passStep_cand hlen hi h hk hrow, ← entry]
  cases entry A q i <;> simp [entry]

/-- A step clears its column in the candidate rows. -/
theorem entry_passStep_cand_column (hi : i ∉ cands) (h : pivotRow A i cands = some p) {k : Nat}
    (hk : k ∈ cands) : entry (passStep A i cands) k i = false := by
  rw [entry_passStep_cand hlen hi h hk rfl, pivotRow_entry h]
  simp

end Step

section Rules

variable {A : List Word} {d i k : Nat}

theorem mem_cons_below_lt (hA : A.length = d) (hi : i < d) :
    ∀ k ∈ i :: below d i, k < A.length :=
  fun _ hk => hA ▸ ((mem_cons_below hi).1 hk).2

theorem mem_cons_above_lt (hA : A.length = d) (hi : i < d) :
    ∀ k ∈ i :: above i, k < A.length :=
  fun _ hk => hA ▸ (mem_cons_above.1 hk).trans_lt hi

theorem not_mem_below_self : i ∉ below d i := fun h => (Nat.lt_irrefl i) (mem_below.1 h).1

theorem not_mem_above_self : i ∉ above i := fun h => (Nat.lt_irrefl i) (mem_above.1 h)

end Rules

end Sys2Proof.Machine.Gf2

namespace Sys2Proof

open Machine Machine.Gf2

/-- Settles O28: the least candidate is the first one of `below d i`. -/
theorem forwardPassRule : Obligations.ForwardPassRule := by
  intro d i A hA _ hi
  have hlen := mem_cons_below_lt hA hi
  refine ⟨fun p hip hpd hpi hleast => ?_, fun hcol => ?_, rfl⟩
  · have hpiv := (pivotRow_below_eq_some_iff hi).2 ⟨hpi, ⟨hip, hpd⟩, hleast⟩
    refine ⟨(length_passStep _ _ _).trans hA, getD_passStep_pivot hlen not_mem_below_self hpiv,
      fun k hk => getD_passStep_other hlen hpiv ?_, fun k hik hkd row hrow =>
      getD_passStep_cand hlen not_mem_below_self hpiv (mem_below.2 ⟨hik, hkd⟩) hrow⟩
    rw [mem_cons_below hi]
    omega
  · refine passStep_of_pivotRow_none (pivotRow_eq_none_iff.2 fun q hq => ?_)
    obtain ⟨hiq, hqd⟩ := (mem_cons_below hi).1 hq
    exact hcol q hiq hqd

/-- Settles O29: the greatest candidate is the first one of `above i`. -/
theorem backwardPassRule : Obligations.BackwardPassRule := by
  intro d i A hA _ hi
  have hlen := mem_cons_above_lt hA hi
  refine ⟨fun p hpi hp hleast => ?_, fun hcol => ?_, List.foldl_reverse⟩
  · have hpiv := pivotRow_above_eq_some_iff.2 ⟨hp, hpi, hleast⟩
    refine ⟨(length_passStep _ _ _).trans hA, getD_passStep_pivot hlen not_mem_above_self hpiv,
      fun k hik _ => getD_passStep_other hlen hpiv ?_, fun k hki row hrow =>
      getD_passStep_cand hlen not_mem_above_self hpiv (mem_above.2 hki) hrow⟩
    rw [mem_cons_above]
    omega
  · exact passStep_of_pivotRow_none (pivotRow_eq_none_iff.2 fun q hq =>
      hcol q (mem_cons_above.1 hq))

end Sys2Proof

namespace Sys2Proof.Machine.Gf2

/-! ### The form the two passes leave (R162) -/

/-- Columns 0 .. n-1 are 0 below the diagonal: what steps 0 .. n-1 of the forward pass leave. -/
def ClearedBelow (d n : Nat) (A : List Word) : Prop :=
  ∀ c < n, ∀ r, c < r → r < d → entry A r c = false

/-- Row r has no 1 to the right of the diagonal, and is 0 if its diagonal entry is. -/
def LastOneOnDiagonal (d : Nat) (A : List Word) (r : Nat) : Prop :=
  (∀ c, r < c → c < d → entry A r c = false) ∧
    (entry A r r = false → ∀ c < d, entry A r c = false)

/-- What steps d-1 .. n of the backward pass leave: rows n and on have their last 1 on the diagonal,
and the rows above have 1s only from the diagonal to column n-1. -/
def ReducedFrom (d n : Nat) (A : List Word) : Prop :=
  (∀ r < n, ∀ c < d, c < r ∨ n ≤ c → entry A r c = false) ∧
    ∀ r, n ≤ r → r < d → LastOneOnDiagonal d A r

section Form

variable {A : List Word} {d n : Nat}

theorem clearedBelow_forwardStep (h : ClearedBelow d n A) (hA : A.length = d) (hn : n < d) :
    ClearedBelow d (n + 1) (forwardStep d A n) := by
  intro c hc r hcr hrd
  have hlen := mem_cons_below_lt hA hn
  rw [forwardStep]
  cases hpiv : pivotRow A n (below d n) with
  | none =>
    rw [passStep_of_pivotRow_none hpiv]
    obtain rfl | hcn := Nat.eq_or_lt_of_le (Nat.le_of_lt_succ hc)
    · exact pivotRow_eq_none_iff.1 hpiv r ((mem_cons_below hn).2 ⟨hcr.le, hrd⟩)
    · exact h c hcn r hcr hrd
  | some p =>
    obtain ⟨-, ⟨hnp, hpd⟩, -⟩ := (pivotRow_below_eq_some_iff hn).1 hpiv
    obtain rfl | hcn := Nat.eq_or_lt_of_le (Nat.le_of_lt_succ hc)
    · exact entry_passStep_cand_column hlen not_mem_below_self hpiv (mem_below.2 ⟨hcr, hrd⟩)
    · have hpc : entry A p c = false := h c hcn p (by omega) hpd
      obtain hrn | rfl | hnr := Nat.lt_trichotomy r n
      · rw [entry_passStep_other hlen hpiv (by rw [mem_cons_below hn]; omega)]
        exact h c hcn r hcr hrd
      · rw [entry_passStep_pivot hlen not_mem_below_self hpiv, hpc]
      · rw [entry_passStep_cand hlen not_mem_below_self hpiv (mem_below.2 ⟨hnr, hrd⟩) rfl, hpc,
          h c hcn _ (by split <;> omega) (by split <;> omega)]
        simp

/-- The forward pass leaves an upper triangular matrix. -/
theorem clearedBelow_forwardPass (hA : A.length = d) :
    ClearedBelow d (d - 1) (forwardPass d A) := by
  have hsteps : ∀ m ≤ d, ClearedBelow d m ((List.range m).foldl (forwardStep d) A) := by
    intro m
    induction m with
    | zero => exact fun _ c hc => absurd hc (Nat.not_lt_zero c)
    | succ m ih =>
      intro hm
      rw [List.range_succ, List.foldl_append, List.foldl_cons, List.foldl_nil]
      exact clearedBelow_forwardStep (ih (by omega))
        ((length_foldl (fun _ _ => length_passStep _ _ _) _ _).trans hA) hm
  exact hsteps (d - 1) (Nat.sub_le d 1)

theorem reducedFrom_of_clearedBelow (h : ClearedBelow d (d - 1) A) : ReducedFrom d d A :=
  ⟨fun r hr c hc hcr => h c (by omega) r (by omega) hr, fun r hr hrd => absurd hrd (by omega)⟩

/-- A step of the backward pass with no 1 in its column at or above the diagonal. -/
theorem reducedFrom_of_column_zero (h : ReducedFrom d (n + 1) A)
    (hcol : ∀ q ≤ n, entry A q n = false) : ReducedFrom d n A := by
  obtain ⟨hupper, hdone⟩ := h
  have hrow : ∀ r ≤ n, ∀ c < d, c < r ∨ n ≤ c → entry A r c = false := fun r hr c hc hcr => by
    by_cases hcn : c = n
    · exact hcn ▸ hcol r hr
    · exact hupper r (by omega) c hc (by omega)
  refine ⟨fun r hr => hrow r hr.le, fun r hnr hrd => ?_⟩
  obtain rfl | hnr := Nat.eq_or_lt_of_le hnr
  · exact ⟨fun c hc hcd => hrow n le_rfl c hcd (.inr hc.le),
      fun _ c hc => hrow n le_rfl c hc (Nat.lt_or_ge c n)⟩
  · exact hdone r hnr hrd

theorem reducedFrom_backwardStep (h : ReducedFrom d (n + 1) A) (hA : A.length = d) (hn : n < d) :
    ReducedFrom d n (backwardStep A n) := by
  have hlen := mem_cons_above_lt hA hn
  rw [backwardStep]
  cases hpiv : pivotRow A n (above n) with
  | none =>
    rw [passStep_of_pivotRow_none hpiv]
    exact reducedFrom_of_column_zero h fun q hq =>
      pivotRow_eq_none_iff.1 hpiv q (mem_cons_above.2 hq)
  | some p =>
    obtain ⟨hupper, hdone⟩ := h
    obtain ⟨hpn, hple, hnearest⟩ := pivotRow_above_eq_some_iff.1 hpiv
    constructor
    · intro r hr c hc hcr
      obtain ⟨q, hq⟩ : ∃ q, q = if r = p then n else r := ⟨_, rfl⟩
      have hrq : r ≤ q ∧ q ≤ n := by rw [hq]; split <;> omega
      obtain rfl | hcn := eq_or_ne c n
      · exact entry_passStep_cand_column hlen not_mem_above_self hpiv (mem_above.2 hr)
      · rw [entry_passStep_cand hlen not_mem_above_self hpiv (mem_above.2 hr) hq,
          hupper q (by omega) c hc (by omega)]
        cases hqn : entry A q n with
        | false => rfl
        | true =>
          have hqp : q ≤ p := Nat.le_of_not_lt fun hpq => by
            simp [hnearest q hpq hrq.2] at hqn
          rw [hupper p (by omega) c hc (by omega)]
          rfl
    · intro r hnr hrd
      obtain rfl | hnr := Nat.eq_or_lt_of_le hnr
      · unfold LastOneOnDiagonal
        simp only [entry_passStep_pivot hlen not_mem_above_self hpiv, hpn]
        exact ⟨fun c hc hcd => hupper p (by omega) c hcd (.inr hc), nofun⟩
      · have hr : r ∉ n :: above n := by rw [mem_cons_above]; omega
        unfold LastOneOnDiagonal
        simp only [entry_passStep_other hlen hpiv hr]
        exact hdone r hnr hrd

/-- Steps d-1 .. 1 of the backward pass. -/
theorem reducedFrom_backwardPass (h : ReducedFrom d d A) (hA : A.length = d)
    (hd : 0 < d) :
    ReducedFrom d 1 (backwardPass d A) := by
  have hsteps : ∀ m B, m + 1 ≤ d → B.length = d → ReducedFrom d (m + 1) B →
      ReducedFrom d 1 ((List.range m).reverse.foldl (fun B j => backwardStep B (j + 1)) B) := by
    intro m
    induction m with
    | zero => exact fun B _ _ hB => hB
    | succ m ih =>
      intro B hm hlen hB
      rw [List.range_succ, List.reverse_append, List.reverse_singleton, List.singleton_append,
        List.foldl_cons]
      exact ih _ (by omega) ((length_passStep _ _ _).trans hlen)
        (reducedFrom_backwardStep hB hlen hm)
  exact hsteps (d - 1) A (by omega) hA (by rwa [Nat.sub_add_cancel hd])

/-- The two passes leave every row with its last 1 on the diagonal. -/
theorem eliminate_lastOneOnDiagonal (hA : A.length = d) {r : Nat} (hr : r < d) :
    LastOneOnDiagonal d (eliminate d A) r := by
  obtain ⟨hupper, hdone⟩ := reducedFrom_backwardPass
    (reducedFrom_of_clearedBelow (clearedBelow_forwardPass hA))
    ((length_forwardPass d A).trans hA) (Nat.zero_lt_of_lt hr)
  obtain rfl | hr0 := Nat.eq_zero_or_pos r
  · refine ⟨fun c hc hcd => hupper 0 Nat.one_pos c hcd (.inr hc), fun h0 c hcd => ?_⟩
    obtain rfl | hc := Nat.eq_zero_or_pos c
    · exact h0
    · exact hupper 0 Nat.one_pos c hcd (.inr hc)
  · exact hdone r hr0 hr

end Form
/-! ### The two passes keep what one step keeps -/

section Passes

variable {A : List Word} {d : Nat}

/-- A property of d-row matrices that every step on rows of the matrix keeps holds after both
passes. -/
theorem eliminate_induction {P : List Word → Prop} (hA : A.length = d) (h : P A)
    (hstep : ∀ (B : List Word) (i : Nat) (cands : List Nat), B.length = d → i ∉ cands →
      (∀ k ∈ i :: cands, k < d) → P B → P (passStep B i cands)) : P (eliminate d A) := by
  have hkeep (B : List Word) (i : Nat) (cands : List Nat) (hi : i ∉ cands)
      (hlt : ∀ k ∈ i :: cands, k < d) (hB : B.length = d ∧ P B) :
      (passStep B i cands).length = d ∧ P (passStep B i cands) :=
    ⟨(length_passStep B i cands).trans hB.1, hstep B i cands hB.1 hi hlt hB.2⟩
  have hforward : (forwardPass d A).length = d ∧ P (forwardPass d A) :=
    List.foldlRecOn _ _ ⟨hA, h⟩ fun B hB i hi =>
      hkeep B i _ not_mem_below_self (fun k hk =>
        ((mem_cons_below (by have := List.mem_range.1 hi; omega)).1 hk).2) hB
  have hbackward : (backwardPass d (forwardPass d A)).length = d ∧
      P (backwardPass d (forwardPass d A)) :=
    List.foldlRecOn (motive := fun B => B.length = d ∧ P B) _ _ hforward fun B hB j hj =>
      hkeep B (j + 1) _ not_mem_above_self (fun k hk => by
        have hkj := mem_cons_above.1 hk
        have hjd := List.mem_range.1 (List.mem_reverse.1 hj)
        omega) hB
  exact hbackward.2

/-- A column that is 0 stays 0. -/
theorem entry_eliminate_of_column_zero (hA : A.length = d) {c : Nat}
    (h : ∀ r, entry A r c = false) (r : Nat) : entry (eliminate d A) r c = false := by
  refine eliminate_induction (P := fun B => ∀ r, entry B r c = false) hA h
    (fun B i cands hB _ hlt hcol r => ?_) r
  cases hpiv : pivotRow B i cands with
  | none => rw [passStep_of_pivotRow_none hpiv, hcol]
  | some p => rw [entry_passStep (hB.symm ▸ hlt) hpiv, hcol, hcol]; split <;> rfl

/-- The passes change nothing in a matrix with no 1 off the diagonal. -/
theorem eliminate_of_diagonal (hA : A.length = d)
    (h : ∀ r < d, ∀ c < d, r ≠ c → entry A r c = false) : eliminate d A = A := by
  refine eliminate_induction (P := fun B => B = A) hA rfl ?_
  rintro B i cands - hi hlt rfl
  exact passStep_of_cands_zero fun k hk =>
    h k (hlt k (List.mem_cons_of_mem _ hk)) i (hlt i List.mem_cons_self) fun hki => hi (hki ▸ hk)

end Passes

/-! ### The rank over GF(2) (R169) -/

/-- The matrix over GF(2) of the rows `A`, whose entry (r, c) is bit 31-c of row r (R161). -/
def toMatrix (d : Nat) (A : List Word) : Matrix (Fin d) (Fin d) (ZMod 2) :=
  Matrix.of fun r c => if entry A r c then 1 else 0

/-- Rows that are the old rows in another order, a multiple of one row that stays added to the
others, span what the old rows span. -/
theorem span_range_eq_of_add_smul {ι R V : Type*} [Ring R] [AddCommGroup V] [Module R V]
    {v w : ι → V} (σ : Equiv.Perm ι) (i : ι) (a : ι → R) (hi : w i = v (σ i))
    (h : ∀ k, w k = v (σ k) + a k • v (σ i)) :
    Submodule.span R (Set.range w) = Submodule.span R (Set.range v) := by
  apply le_antisymm <;> rw [Submodule.span_le, Set.range_subset_iff] <;> intro k
  · rw [h k]
    exact add_mem (Submodule.subset_span ⟨_, rfl⟩)
      (Submodule.smul_mem _ _ (Submodule.subset_span ⟨_, rfl⟩))
  · have hk : v k = w (σ.symm k) - a (σ.symm k) • w i := by
      rw [h, hi, σ.apply_symm_apply, add_sub_cancel_right]
    rw [hk]
    exact sub_mem (Submodule.subset_span ⟨_, rfl⟩)
      (Submodule.smul_mem _ _ (Submodule.subset_span ⟨_, rfl⟩))

section Rank

variable {A : List Word} {d : Nat}

theorem toMatrix_apply (r c : Fin d) : toMatrix d A r c = if entry A r c then 1 else 0 := rfl

/-- In GF(2) the sum of two bits is their XOR (R14). -/
theorem ite_xor_eq_add (x y : Bool) :
    (if (x ^^ y) = true then 1 else 0 : ZMod 2) = (if x then 1 else 0) + if y then 1 else 0 := by
  cases x <;> cases y <;> decide

/-- A step keeps the rank: it exchanges two rows and adds one of them to others. -/
theorem rank_passStep {i : Nat} {cands : List Nat} (hA : A.length = d) (hi : i ∉ cands)
    (hlt : ∀ k ∈ i :: cands, k < d) :
    (toMatrix d (passStep A i cands)).rank = (toMatrix d A).rank := by
  cases hpiv : pivotRow A i cands with
  | none => rw [passStep_of_pivotRow_none hpiv]
  | some p =>
    have hlen : ∀ k ∈ i :: cands, k < A.length := hA.symm ▸ hlt
    obtain ⟨i', rfl⟩ : ∃ i' : Fin d, i = i' := ⟨⟨i, hlt i List.mem_cons_self⟩, rfl⟩
    obtain ⟨p', rfl⟩ : ∃ p' : Fin d, p = p' := ⟨⟨p, hlt p (pivotRow_mem hpiv)⟩, rfl⟩
    rw [Matrix.rank_eq_finrank_span_row, Matrix.rank_eq_finrank_span_row,
      span_range_eq_of_add_smul (v := (toMatrix d A).row) (Equiv.swap i' p') i'
        (fun k => if (k : Nat) ∈ cands ∧ entry A (Equiv.swap i' p' k) i' then 1 else 0)]
    · ext c
      simp only [Matrix.row, toMatrix_apply, Equiv.swap_apply_left,
        entry_passStep_pivot hlen hi hpiv]
    · intro k
      ext c
      simp only [Matrix.row, Pi.add_apply, Pi.smul_apply, smul_eq_mul, toMatrix_apply,
        Equiv.swap_apply_left, entry_passStep hlen hpiv, Fin.val_injective.swap_apply]
      split
      · rw [one_mul, ite_xor_eq_add]
      · rw [zero_mul, add_zero]

theorem rank_eliminate (hA : A.length = d) :
    (toMatrix d (eliminate d A)).rank = (toMatrix d A).rank :=
  eliminate_induction (P := fun B => (toMatrix d B).rank = (toMatrix d A).rank) hA rfl
    fun _ _ _ hB hi hlt hrank => (rank_passStep hB hi hlt).trans hrank

/-- `M` with 1s on the diagonal. -/
def unitDiagonal (M : Matrix (Fin d) (Fin d) (ZMod 2)) : Matrix (Fin d) (Fin d) (ZMod 2) :=
  Matrix.of fun r c => if r = c then 1 else M r c

theorem isUnit_det_unitDiagonal {M : Matrix (Fin d) (Fin d) (ZMod 2)}
    (h : ∀ r c, r < c → M r c = 0) : IsUnit (unitDiagonal M).det := by
  have htri : (unitDiagonal M).IsLowerTriangular := fun r c hrc => by
    have hrc : r < c := hrc
    simp [unitDiagonal, hrc.ne, h r c hrc]
  rw [Matrix.det_of_isLowerTriangular _ htri]
  simp [unitDiagonal]

/-- A matrix whose rows are 0 or have their last 1 on the diagonal is that diagonal times an
invertible matrix. -/
theorem diagonal_mul_unitDiagonal {M : Matrix (Fin d) (Fin d) (ZMod 2)}
    (h : ∀ r, M r r = 0 → ∀ c, M r c = 0) :
    Matrix.diagonal (fun r => M r r) * unitDiagonal M = M := by
  ext r c
  rw [Matrix.diagonal_mul, unitDiagonal, Matrix.of_apply]
  obtain rfl | hrc := eq_or_ne r c
  · simp
  · rw [if_neg hrc]
    obtain hr | hr : M r r = 0 ∨ M r r = 1 := by generalize M r r = x; revert x; decide
    · rw [hr, h r hr c, zero_mul]
    · rw [hr, one_mul]

/-- If every row has its last 1 on the diagonal, the rank is the number of 1s there. -/
theorem rank_of_lastOneOnDiagonal (h : ∀ r < d, LastOneOnDiagonal d A r) :
    (toMatrix d A).rank = ((Finset.range d).filter fun r => entry A r r = true).card := by
  have hentry (r c : Fin d) : toMatrix d A r c = 0 ↔ entry A r c = false := by
    rw [toMatrix_apply]
    cases entry A r c <;> decide
  have hupper (r c : Fin d) (hrc : r < c) : toMatrix d A r c = 0 :=
    (hentry r c).2 ((h r r.isLt).1 c hrc c.isLt)
  have hrow (r : Fin d) (hr : toMatrix d A r r = 0) (c : Fin d) : toMatrix d A r c = 0 :=
    (hentry r c).2 ((h r r.isLt).2 ((hentry r r).1 hr) c c.isLt)
  rw [← diagonal_mul_unitDiagonal hrow,
    Matrix.rank_mul_eq_left_of_isUnit_det _ _ (isUnit_det_unitDiagonal hupper),
    Matrix.rank_diagonal, Fintype.card_subtype]
  simp only [ne_eq, hentry, Bool.not_eq_false]
  rw [Finset.card_filter, Finset.card_filter,
    Fin.sum_univ_eq_sum_range fun r => if entry A r r = true then 1 else 0]

end Rank

end Sys2Proof.Machine.Gf2

namespace Sys2Proof

open Machine Machine.Gf2

/-! ### Rows as words (R14, R166) -/

theorem rowMask_getLsbD {d b : Nat} (hb : b < 32) :
    (rowMask d).getLsbD b = decide (32 - d ≤ b) := by
  have hlt : b - (32 - d) < 32 := by omega
  rw [rowMask, BitVec.getLsbD_shiftLeft, BitVec.getLsbD_allOnes]
  simp only [hb, hlt, decide_true, Bool.true_and, Bool.and_true, ← decide_not, Nat.not_lt]

/-- A word without its low 32-d bits is 0 exactly if its top d bits are. -/
theorem toNat_div_eq_zero_iff {d : Nat} (hd : d ≤ 32) (w : Word) :
    w.toNat / 2 ^ (32 - d) = 0 ↔ ∀ c < d, w.getLsbD (31 - c) = false := by
  have hbit (j : Nat) : (w.toNat / 2 ^ (32 - d)).testBit j = w.getLsbD (32 - d + j) := by
    rw [Nat.testBit_div_two_pow, Nat.add_comm, BitVec.testBit_toNat]
  constructor
  · intro h c hc
    rw [show 31 - c = 32 - d + (d - 1 - c) by omega, ← hbit, h, Nat.zero_testBit]
  · intro h
    refine Nat.eq_of_testBit_eq fun j => ?_
    rw [hbit, Nat.zero_testBit]
    by_cases hj : j < d
    · rw [show 32 - d + j = 31 - (d - 1 - j) by omega, h _ (by omega)]
    · exact BitVec.getLsbD_of_ge _ _ (by omega)

/-- A row with no 1 outside its top d bits is 0 if they are. -/
theorem getD_eq_zero_iff {B : List Word} {d r : Nat}
    (hlow : ∀ c, d ≤ c → c < 32 → entry B r c = false) :
    B.getD r 0 = 0 ↔ ∀ c < d, entry B r c = false := by
  constructor
  · intro h c _
    rw [entry, h]
    exact BitVec.getLsbD_zero
  · intro h
    refine BitVec.eq_of_getLsbD_eq fun b hb => ?_
    rw [show b = 31 - (31 - b) by omega, ← entry]
    refine Eq.trans ?_ BitVec.getLsbD_zero.symm
    by_cases hc : 31 - b < d
    · exact h _ hc
    · exact hlow _ (by omega) (by omega)

theorem nonzeroRows_eq_card (B : List Word) :
    nonzeroRows B = ((Finset.range B.length).filter fun r => B.getD r 0 ≠ 0).card := by
  rw [← Nat.count_eq_card_filter_range, Nat.count]
  have hB : (List.range B.length).map (fun r => B.getD r 0) = B :=
    List.ext_getElem (by simp) fun r hr hr' => by simp [hr']
  conv_lhs => rw [← hB]
  rw [nonzeroRows, List.countP_map]
  rfl

/-! ### The matrix RANK consumes and the one it leaves (R161, R168) -/

section Rows

variable {s : State} {d r c : Nat}

theorem entry_matrixRows (hd : d ≤ 32) (hr : r < d) (hc : c < 32) :
    entry (s.matrixRows d) r c =
      (decide (c < d) && (s.matrix.value s.draws r).getLsbD (31 - c)) := by
  have hmask : (rowMask d).getLsbD (31 - c) = decide (c < d) := by
    rw [rowMask_getLsbD (by omega), decide_eq_decide]
    omega
  simp [entry, State.matrixRows, hr, hmask, Bool.and_comm]

/-- The matrix has no column d or after. -/
theorem entry_matrixRows_of_le (hd : d ≤ 32) (hc : d ≤ c) (hc32 : c < 32) (r : Nat) :
    entry (s.matrixRows d) r c = false := by
  by_cases hr : r < d
  · simp [entry_matrixRows hd hr hc32, Nat.not_lt.2 hc]
  · simp [entry, State.matrixRows, hr]

theorem entry_matrixRows_written (hd : d ≤ 32) (hw : RowsWritten s d) (hr : r < d) (hc : c < 32) :
    entry (s.matrixRows d) r c = (decide (c < d) && matrixEntry s r c) := by
  rw [entry_matrixRows hd hr hc, Buffer.value_written _ (hw r hr), matrixEntry]

theorem toMatrix_matrixRows (hd : d ≤ 32) (hw : RowsWritten s d) :
    toMatrix d (s.matrixRows d) = gf2Matrix s d := by
  ext r c
  rw [toMatrix_apply, entry_matrixRows_written hd hw r.isLt (c.isLt.trans_le hd)]
  simp [gf2Matrix]

/-- The rows both passes leave. -/
def Machine.State.eliminated (d : Nat) (s : State) : List Word := eliminate d (s.matrixRows d)

@[simp] theorem Machine.State.length_eliminated : (s.eliminated d).length = d := by
  simp [State.eliminated]

/-- The passes keep to the top d bits. -/
theorem eliminated_eq_zero_iff (hd : d ≤ 32) (r : Nat) :
    (s.eliminated d).getD r 0 = 0 ↔ ∀ c < d, entry (s.eliminated d) r c = false :=
  getD_eq_zero_iff fun _ hc hc32 => entry_eliminate_of_column_zero (State.length_matrixRows s d)
    (entry_matrixRows_of_le hd hc hc32) r

theorem eliminated_lastOneOnDiagonal (hr : r < d) : LastOneOnDiagonal d (s.eliminated d) r :=
  eliminate_lastOneOnDiagonal (State.length_matrixRows s d) hr

/-- The count of nonzero rows is the rank of the matrix consumed (R169). -/
theorem nonzeroRows_eliminated (hd : d ≤ 32) :
    nonzeroRows (s.eliminated d) = (toMatrix d (s.matrixRows d)).rank := by
  have hrow : ∀ r < d, (s.eliminated d).getD r 0 ≠ 0 ↔ entry (s.eliminated d) r r = true := by
    intro r hr
    have hzero : (s.eliminated d).getD r 0 = 0 ↔ entry (s.eliminated d) r r = false :=
      (eliminated_eq_zero_iff hd r).trans
        ⟨fun h => h r hr, (eliminated_lastOneOnDiagonal hr).2⟩
    rw [Ne, hzero, Bool.not_eq_false]
  calc nonzeroRows (s.eliminated d)
    _ = ((Finset.range d).filter fun r => (s.eliminated d).getD r 0 ≠ 0).card := by
      rw [nonzeroRows_eq_card, State.length_eliminated]
    _ = ((Finset.range d).filter fun r => entry (s.eliminated d) r r = true).card :=
      congrArg _ (Finset.filter_congr fun r hr => hrow r (Finset.mem_range.1 hr))
    _ = (toMatrix d (s.eliminated d)).rank :=
      (rank_of_lastOneOnDiagonal fun _ => eliminated_lastOneOnDiagonal).symm
    _ = (toMatrix d (s.matrixRows d)).rank := rank_eliminate (State.length_matrixRows s d)

/-! ### RANK d (R168) -/

/-- The state RANK d leaves on a legal side. -/
def Machine.State.ranked (d : Nat) (s : State) : State :=
  ({ s.consume .unwrittenMatrix s.matrix d with
    matrix := writeRows d (s.eliminated d) s.draws s.matrix
    rankResult := BitVec.ofNat 32 (nonzeroRows (s.eliminated d)) } : State).succeed

@[simp] theorem Machine.State.ranked_matrix :
    (s.ranked d).matrix = writeRows d (s.eliminated d) s.draws s.matrix := rfl

theorem exec_rank_eq_ranked {d : Byte} (h1 : 1 ≤ d.toNat) (h32 : d.toNat ≤ 32) :
    exec (.rank d) s = .next (s.ranked d.toNat) := exec_rank s h1 h32

theorem ranked_rankResult_toNat (hd : d ≤ 32) :
    (s.ranked d).rankResult.toNat = nonzeroRows (s.eliminated d) := by
  have hle := nonzeroRows_le (s.eliminated d)
  rw [State.length_eliminated] at hle
  exact Nat.mod_eq_of_lt (by omega)

/-- RANK_RESULT is the rank over GF(2) of a matrix whose rows are written (R169). -/
theorem ranked_rankResult_eq_rank (hd : d ≤ 32) (hw : RowsWritten s d) :
    (s.ranked d).rankResult.toNat = (gf2Matrix s d).rank := by
  rw [ranked_rankResult_toNat hd, nonzeroRows_eliminated hd, toMatrix_matrixRows hd hw]

/-- The bits of a row RANK writes back: the top d from the passes, the others as they were consumed
(R166). -/
theorem writeRows_getLsbD {A : List Word} {k b : Nat} {m : Buffer} (hr : r < d)
    (hm : r < m.length) (hb : b < 32) :
    ((writeRows d A k m).word r).val.getLsbD b =
      if 32 - d ≤ b then entry A r (31 - b) else (m.value k r).getLsbD b := by
  have hbit : 31 - (31 - b) = b := by omega
  rw [writeRows_word_lt A k m hr hm, BitVec.getLsbD_or, BitVec.getLsbD_and, BitVec.getLsbD_and,
    BitVec.getLsbD_not, rowMask_getLsbD hb, entry, hbit]
  by_cases h : 32 - d ≤ b <;> simp [h, hb]

theorem matrixEntry_ranked (hr : r < d) (hc : c < d) (hd : d ≤ 32) (hm : r < s.matrix.length) :
    matrixEntry (s.ranked d) r c = entry (s.eliminated d) r c := by
  have hcol : 31 - (31 - c) = c := by omega
  rw [matrixEntry, State.ranked_matrix, writeRows_getLsbD hr hm (by omega), if_pos (by omega), hcol]

/-- Where the rows consumed are written, the write-back changes no written-flag. -/
theorem writeRows_written_eq {A : List Word} {k : Nat} (hw : RowsWritten s d) (r : Nat) :
    ((writeRows d A k s.matrix).word r).written = (s.matrix.word r).written := by
  by_cases hr : r < d
  · rw [hw r hr, writeRows_written A k (hw r hr)]
  · rw [writeRows_word_ge A k _ (Nat.le_of_not_lt hr)]

/-- Where the rows consumed are written, every bit but the top d of rows 0 .. d-1 is as it was
(R168). -/
theorem writeRows_getLsbD_written {A : List Word} {k b : Nat} (hw : RowsWritten s d) (r : Nat)
    (hb : b < 32) :
    ((writeRows d A k s.matrix).word r).val.getLsbD b =
      if r < d ∧ 32 - d ≤ b then entry A r (31 - b) else (s.matrix.word r).val.getLsbD b := by
  by_cases hr : r < d
  · rw [writeRows_getLsbD hr (Buffer.lt_length_of_written (hw r hr)) hb,
      Buffer.value_written k (hw r hr)]
    simp only [hr, true_and]
  · rw [writeRows_word_ge A k _ (Nat.le_of_not_lt hr), if_neg fun h => hr h.1]

theorem Machine.BufWord.ext_getLsbD {v w : BufWord} (hw : v.written = w.written)
    (hv : ∀ b < 32, v.val.getLsbD b = w.val.getLsbD b) : v = w := by
  cases v
  cases w
  exact congr (congrArg BufWord.mk (BitVec.eq_of_getLsbD_eq hv)) hw

/-- Writing back the rows that were consumed changes nothing. -/
theorem writeRows_matrixRows (hd : d ≤ 32) (hw : RowsWritten s d) :
    writeRows d (s.matrixRows d) s.draws s.matrix = s.matrix := by
  refine Buffer.ext_word (length_writeRows _ _ _ _) fun r _ =>
    BufWord.ext_getLsbD (writeRows_written_eq hw r) fun b hb => ?_
  rw [writeRows_getLsbD_written hw r hb]
  split
  · next h =>
    have hbit : 31 - (31 - b) = b := by omega
    have hcol : 31 - b < d := by omega
    rw [entry_matrixRows_written hd hw h.1 (by omega), matrixEntry, hbit]
    simp [hcol]
  · rfl

end Rows

/-- Settles O31: what the passes leave is what RANK writes back. -/
theorem rankLeavesLastOnesOnDiagonal : Obligations.RankLeavesLastOnesOnDiagonal := by
  intro s d h1 h32 hlen
  refine ⟨_, exec_rank_eq_ranked h1 h32, fun r hr => ?_⟩
  have hentry : ∀ c < d.toNat, matrixEntry (s.ranked d.toNat) r c =
      entry (s.eliminated d.toNat) r c := fun c hc =>
    matrixEntry_ranked hr hc h32 (by omega)
  obtain ⟨hright, hzero⟩ : LastOneOnDiagonal d.toNat (s.eliminated d.toNat) r :=
    eliminated_lastOneOnDiagonal hr
  refine ⟨fun c hrc hc => (hentry c hc).trans (hright c hrc hc), fun hrr c hc => ?_⟩
  exact (hentry c hc).trans (hzero ((hentry r hr).symm.trans hrr) c hc)

/-- Settles O32: the passes keep the rank and leave a matrix whose nonzero rows are its rank. -/
theorem rankIsTheGf2Rank : Obligations.RankIsTheGf2Rank := fun _ _ h1 h32 hw =>
  ⟨_, exec_rank_eq_ranked h1 h32, ranked_rankResult_eq_rank h32 hw⟩

/-- Settles O34: the rank does not depend on the order of the rows. -/
theorem rankIgnoresRowOrder : Obligations.RankIgnoresRowOrder := by
  intro s s' d σ h1 h32 hw hw' hσ
  have hperm : gf2Matrix s' d.toNat =
      (gf2Matrix s d.toNat).submatrix σ (Equiv.refl (Fin d.toNat)) := by
    ext r c
    simp [gf2Matrix, hσ r c c.isLt]
  refine ⟨_, _, exec_rank_eq_ranked h1 h32, exec_rank_eq_ranked h1 h32, BitVec.eq_of_toNat_eq ?_⟩
  rw [ranked_rankResult_eq_rank h32 hw, ranked_rankResult_eq_rank h32 hw', hperm,
    Matrix.rank_submatrix]

/-- Settles O20: the rows consumed are the top d bits of rows 0 .. d-1, as they are written. -/
theorem rankRule : Obligations.RankRule := by
  refine ⟨fun _ => encode_instr_of_takesImm (o := .rank) rfl (by decide),
    fun rsv imm hrsv himm => ?_, fun s d h1 h32 hw => ?_⟩
  · have hillegal : ((Opcode.rank.instr (BitVec.ofNat 8 imm)).wf = false) =
        (imm = 0 ∨ 32 < imm) := by
      simp [Opcode.wf_instr_eq_false_iff, Opcode.field, Nat.mod_eq_of_lt himm]
    have hdec := decode_wordOf_of_takesImm (o := .rank) rfl hrsv himm
    simp only [hillegal] at hdec
    exact hdec
  · refine ⟨s.matrixRows d.toNat, s.eliminated d.toNat, (s.ranked d.toNat).matrix,
      State.length_matrixRows _ _, fun r hr c hc => entry_matrixRows_written h32 hw hr hc, rfl, ?_,
      length_writeRows _ _ _ _, fun r => ⟨?_, fun b hb => ?_⟩⟩
    · rw [exec_rank_eq_ranked h1 h32, State.ranked,
        State.consume_written _ (Buffer.allWritten_iff.2 hw), nonzeroRows_eq_card,
        State.length_eliminated]
      rfl
    · exact writeRows_written_eq hw r
    · exact writeRows_getLsbD_written hw r hb

/-- Settles O30: a row of the passes is 0 exactly if the top d bits of the row written back are. -/
theorem rankResultCountsNonzeroRows : Obligations.RankResultCountsNonzeroRows := by
  intro s d h1 h32 hlen
  have hcount : (s.ranked d.toNat).rankResult.toNat = nonzeroRows (s.eliminated d.toNat) :=
    ranked_rankResult_toNat h32
  refine ⟨_, exec_rank_eq_ranked h1 h32, ?_, ?_⟩
  · simpa [hcount] using nonzeroRows_le (s.eliminated d.toNat)
  · rw [hcount, nonzeroRows_eq_card, State.length_eliminated]
    refine congrArg _ (Finset.filter_congr fun r hr => not_congr ?_)
    have hrd := Finset.mem_range.1 hr
    rw [toNat_div_eq_zero_iff h32, eliminated_eq_zero_iff h32]
    refine forall₂_congr fun c hc => ?_
    rw [← matrixEntry_ranked hrd hc h32 (by omega), matrixEntry]

/-- Settles O33: neither matrix has a 1 off the diagonal, so the passes change nothing. -/
theorem rankOfIdentityAndZero : Obligations.RankOfIdentityAndZero := by
  intro s d h1 h32 hw
  have hsame (h : ∀ r < d.toNat, ∀ c < d.toNat, r ≠ c → matrixEntry s r c = false) :
      (s.ranked d.toNat).matrix = s.matrix := by
    have helim : s.eliminated d.toNat = s.matrixRows d.toNat :=
      eliminate_of_diagonal (State.length_matrixRows _ _) fun r hr c hc hrc => by
        rw [entry_matrixRows_written h32 hw hr (hc.trans_le h32), h r hr c hc hrc, Bool.and_false]
    rw [State.ranked_matrix, helim, writeRows_matrixRows h32 hw]
  refine ⟨fun hone => ⟨_, exec_rank_eq_ranked h1 h32, ?_, hsame ?_⟩,
    fun hzero => ⟨_, exec_rank_eq_ranked h1 h32, ?_, hsame ?_⟩⟩
  · have hmatrix : gf2Matrix s d.toNat = 1 := by
      ext r c
      simp [gf2Matrix, hone r r.isLt c c.isLt, Matrix.one_apply, Fin.ext_iff]
    rw [ranked_rankResult_eq_rank h32 hw, hmatrix, Matrix.rank_one, Fintype.card_fin]
  · exact fun r hr c hc hrc => by simp [hone r hr c hc, hrc]
  · have hmatrix : gf2Matrix s d.toNat = 0 := by
      ext r c
      simp [gf2Matrix, hzero r r.isLt c c.isLt]
    rw [ranked_rankResult_eq_rank h32 hw, hmatrix, Matrix.rank_zero]
  · exact fun r hr c hc _ => hzero r hr c hc

end Sys2Proof

/-! PROOF. The statements of 60_exceptions.md: the order in which errors are reported (R182) and the
interrupt line (R190). -/

namespace Sys2Proof

open Machine

/-! ### The code a completion reports (R182) -/

/-- The code of a legal command's own checks in the order of its rule, and 0 if all pass. -/
def Machine.State.checkCode (s : State) : Instr → BitVec 4
  | .nop | .seedClear | .rank _ => 0
  | .loadModulus => if opbufSum s < 2 then ErrorCode.degenerateModulus.code else 0
  | .seedAbsorb _ => if s.modValid = false then ErrorCode.noModulus.code else 0
  | .seedCommit =>
    if s.modValid = false then ErrorCode.noModulus.code
    else if s.seedNonempty = false then ErrorCode.emptySeed.code
    else 0
  | .nextBits _ =>
    if s.modValid = false then ErrorCode.noModulus.code
    else if s.seeded = false then ErrorCode.unseeded.code
    else 0

/-- The code the completion of a word reports: the decoder's, or that of the command's checks. -/
def Machine.State.reportedCode (s : State) : Decoded → BitVec 4
  | .error c => c.code
  | .valid i => s.checkCode i

/-- A legal command leaves the code of its checks in ERR_CODE, where the words that LOAD_MODULUS
consumes are written. -/
theorem exec_errCode {i : Instr} {s t : State} (hwf : i.wf = true)
    (hwritten : i = .loadModulus → s.opbuf.allWritten s.params.nw = true)
    (h : exec i s = .next t) : t.errCode = s.checkCode i := by
  cases i with
  | nop => obtain rfl := execNop_next h; rfl
  | loadModulus =>
    have hsum := opbufValue_eq_opbufSum (hwritten rfl)
    obtain ⟨hlt, rfl⟩ | ⟨hle, rfl⟩ := execLoadModulus_next h
    · exact (if_pos (hsum ▸ hlt)).symm
    · exact (if_neg (Nat.not_lt.2 (hsum ▸ hle))).symm
  | seedClear => obtain rfl := execSeedClear_next h; rfl
  | seedAbsorb b =>
    obtain ⟨hm, rfl⟩ | ⟨hm, rfl⟩ := execSeedAbsorb_next h <;> simp [State.checkCode, hm]
  | seedCommit =>
    obtain ⟨hm, hn, rfl⟩ | ⟨hm, hn, rfl⟩ | ⟨hm, rfl⟩ := execSeedCommit_next h <;>
      simp [State.checkCode, *]
  | nextBits c =>
    have hc : c.toNat ≤ 32 := by simpa [Instr.wf] using hwf
    obtain ⟨hbad, -⟩ | ⟨-, hm, hs, rfl⟩ | ⟨-, hm, hs, rfl⟩ | ⟨-, hm, rfl⟩ := execNextBits_next h
    · exact absurd hbad (Nat.not_lt.2 hc)
    all_goals simp [State.checkCode, *]
  | rank d =>
    have hd : 1 ≤ d.toNat ∧ d.toNat ≤ 32 := by simpa [Instr.wf] using hwf
    obtain ⟨hbad, -⟩ | ⟨-, -, rfl⟩ := execRank_next h
    · omega
    · rfl

/-- ERR is 1 after a completion exactly if its code is not 0 (R31, R104). -/
theorem CompletesAny.step_err {s t : State} (hc : CompletesAny s) (h : step s = .next t) :
    t.err = decide (t.errCode ≠ 0) := by
  have hfail (c : ErrorCode) : true = decide (c.code ≠ 0) := (decide_eq_true c.code_range.1).symm
  rw [hc.step_eq] at h
  obtain ⟨hnone, -⟩ | ⟨w, c, -, -, rfl⟩ | ⟨w, i, -, -, he⟩ := completion_next h
  · exact absurd hnone hc.2
  · exact hfail c
  · obtain ⟨herr, c, hcode⟩ | ⟨herr, hcode⟩ := exec_next_err he
    · rw [herr, hcode, hfail c]
    · rw [herr, hcode]; rfl

/-- The completion of a pending word leaves the code of its decoding in ERR_CODE. -/
theorem CompletesAny.step_errCode {s t : State} {w : Word} (hc : CompletesAny s)
    (hp : s.pend = some w)
    (hwritten : decode w = .valid .loadModulus → s.opbuf.allWritten s.params.nw = true)
    (h : step s = .next t) : t.errCode = s.reportedCode (decode w) := by
  rw [hc.step_eq] at h
  cases hd : decode w with
  | error c =>
    rw [completion_error (s := s.popped) hp hd] at h
    cases h
    rfl
  | valid i =>
    rw [completion_valid (s := s.popped) hp hd] at h
    exact exec_errCode (s := s.popped) (wf_of_decode hd) (fun hi => hwritten (hi ▸ hd)) h

/-- Settles O10: decoding makes the first four checks, each with its code; a word that passes them
is one of the seven commands, whose own checks give the rest. RANK has no check of its own, so the
premise on its rows is not needed. -/
theorem errorPriority : Obligations.ErrorPriority := by
  intro s op rsv imm hop hrsv himm hev hp hopbuf _
  have hc : CompletesAny s := ⟨hev, by simp [hp]⟩
  obtain ⟨t, ht⟩ := step_goes s
  refine ⟨t, ht, hc.step_err ht, ?_⟩
  rw [hc.step_errCode hp (fun hd => Buffer.allWritten_iff.2 (hopbuf hd)) ht,
    decodeChecksInOrder op rsv imm hop hrsv himm]
  by_cases h7 : 7 ≤ op
  · rw [if_pos h7, if_pos h7]
    rfl
  · rw [if_neg h7, if_neg h7]
    iterate 3 rw [apply_ite s.reportedCode]
    refine if_congr Iff.rfl rfl (if_congr Iff.rfl rfl (if_congr Iff.rfl rfl ?_))
    obtain ⟨o, rfl⟩ := Opcode.exists_field_toNat (Nat.lt_of_not_le h7)
    cases o <;> simp [Opcode.field, State.reportedCode, State.checkCode, ErrorCode.code]

/-! ### The interrupt line (R190) -/

/-- Settles O47: IRQ is the conjunction and disjunction that the rule names. -/
theorem interruptLineIsAFunctionOfState : Obligations.InterruptLineIsAFunctionOfState := fun s => by
  rw [State.irq, Bool.and_eq_true, Bool.or_eq_true]

end Sys2Proof
